-- ==== Sys2Proof/Word.lean ====
section
/-! DEFINITION. The widths the spec names (R9, R10, R80, R85) and the code words an encoding can give. -/

namespace Sys2Proof

/-- `Bit` (R10): `true` is 1, high; `false` is 0, low. -/
abbrev Bit := Bool

/-- `u8`: one colour channel, one byte of the wire (R10). -/
abbrev Byte := BitVec 8

/-- `u5`: a brightness level (R10, R21). -/
abbrev Level := BitVec 5

/-- `u29`: a packed pixel `{lvl, b, g, r}` (R24). -/
abbrev Packed := BitVec 29

/-- `u32`: a wire word (R71, R72) or a response word (R85). -/
abbrev Word32 := BitVec 32

/-- `u40`: a command word (R80). -/
abbrev CmdWord := BitVec 40

/-- A code word in the format its encoding has: a command word of the port (`CMD40`, R80), a 32-bit word of the wire
(`WIRE_S`, `WIRE_P`; R71, R72), or the 36 sampled bits of the latch (`WIRE_L`, R73). -/
inductive CodeWord where
  | command (w : CmdWord)
  | wire (w : Word32)
  | latch (w : BitVec 36)
deriving DecidableEq, Repr

end Sys2Proof
end

