-- ==== Sys2Proof/Config.lean ====
section
/-! DEFINITION. The fixed parameters of R7, and the open parameters of R8, which have no value here. -/

namespace Sys2Proof.Config

/-- `IDX_MAX` (R7): the largest pixel index. -/
@[simp] def idxMax : Int := 7

/-- `CHAN_MAX` (R7): the largest channel value. -/
@[simp] def chanMax : Int := 255

/-- `LVL_MAX` (R7): the largest brightness level, and the multiplier of `quantise`. -/
@[simp] def lvlMax : Rat := 31

/-- `NPIX` (R7): the length every array operand must have. -/
@[simp] def npix : Nat := 8

/-- `GRAD_DEN` (R7): the denominator of the gradient fraction `i/7`. -/
@[simp] def gradDen : Rat := 7

/-- `FLAG` (R7): the top three bits of every pixel packet. -/
@[simp] def flag : BitVec 3 := 0b111#3

/-- `PREAMBLE_BYTES` (R7). -/
@[simp] def preambleBytes : Nat := 4

/-- `LATCH_PULSES` (R7): the pulses at the end of a frame. -/
@[simp] def latchPulses : Nat := 36

/-- `LINE_INIT.clk0` (R8, R243; OPEN, D10): the level of `CLK` after hardware reset. -/
opaque clk0 : Bit

/-- `LINE_INIT.dat0` (R8, R243; OPEN, D10): the level of `DAT` after hardware reset. -/
opaque dat0 : Bit

/-- `io_ok` (R8; OPEN, D13): whether the line operation attempted as number `k` since hardware reset is performed. -/
opaque ioOk : Nat → Bool

/-- `io_fail_level` (R8; OPEN, D13): the selector of a failed operation, 1 where the line takes the requested level
after all. -/
opaque ioFailLevel : Nat → Bit

end Sys2Proof.Config
end

