-- ==== Sys2Proof/Syntax.lean ====
section
/-! DEFINITION. The instructions: one constructor per row of spec/opcode_table.json. -/

namespace Sys2Proof

/-- `Colour` (R10): a triple of unbounded integers, an operand of the host layer. -/
structure Colour where
  red : Int
  green : Int
  blue : Int
deriving DecidableEq, Repr

/-- Which of the three kinds of row an instruction is (R3, R92): a command of the block's port, an item of the wire
frame, an operation of the host layer. -/
inductive Layer where
  | block
  | wire
  | host
deriving DecidableEq, Repr

/-- The instructions. Operands of a command or of a wire item have the exact width of their field (R80, R72), operands of
a host-layer operation are unbounded (R90). Operands stand in the order of the syntax (R89, R90). -/
inductive Instr where
  /-- `WRPIX idx, r, g, b, lvl` (R100) -/
  | wrpix (idx : Fin 8) (r g b : Byte) (lvl : Level)
  /-- `CLRPIX idx` (R101) -/
  | clrpix (idx : Fin 8)
  /-- `CLRALL` (R102) -/
  | clrall
  /-- `FILL r, g, b, lvl` (R103) -/
  | fill (r g b : Byte) (lvl : Level)
  /-- `RDPIX idx` (R104) -/
  | rdpix (idx : Fin 8)
  /-- `TX` (R130) -/
  | tx
  /-- the preamble word of a frame (R71, R137) -/
  | preamble
  /-- a pixel packet of a frame (R72, R140) with the fields it carries -/
  | pixelPacket (r g b : Byte) (lvl : Level)
  /-- the latch of a frame (R73, R142) -/
  | latch
  /-- `setPixel(index, red, green, blue, brightness)` (R172) -/
  | setPixelRgbBrightness (index red green blue : Int) (brightness : Rat)
  /-- `setPixel(index, red, green, blue)` (R173) -/
  | setPixelRgb (index red green blue : Int)
  /-- `setPixel(index, colour, brightness)` (R174) -/
  | setPixelColourBrightness (index : Int) (colour : Colour) (brightness : Rat)
  /-- `setPixel(index, colour)` (R174) -/
  | setPixelColour (index : Int) (colour : Colour)
  /-- `clearPixel(index)` (R175) -/
  | clearPixel (index : Int)
  /-- `getPixel(index)` (R186) -/
  | getPixel (index : Int)
  /-- `clearAll()` (R176) -/
  | clearAll
  /-- `setAll(red, green, blue, brightness)` (R177) -/
  | setAll (red green blue : Int) (brightness : Rat)
  /-- `setGradient(startColor, endColor, startBrightness, endBrightness)` (R179) -/
  | setGradient (startColor endColor : Colour) (startBrightness endBrightness : Rat)
  /-- `setGradient(startColor, endColor, brightness)` (R182) -/
  | setGradientOneBrightness (startColor endColor : Colour) (brightness : Rat)
  /-- `setGradient(colour, startBrightness, endBrightness)` (R182) -/
  | setGradientOneColour (colour : Colour) (startBrightness endBrightness : Rat)
  /-- `setGradient(colour, brightness)` (R182) -/
  | setGradientFlat (colour : Colour) (brightness : Rat)
  /-- `setAllPixels(colours, brightnesses)` with a list of brightnesses (R183) -/
  | setAllPixelsList (colours : List Colour) (brightnesses : List Rat)
  /-- `setAllPixels(colours, brightness)` with one brightness (R183) -/
  | setAllPixelsScalar (colours : List Colour) (brightness : Rat)
  /-- `setDefaultBrightness(value)` (R184) -/
  | setDefaultBrightness (value : Rat)
  /-- `getDefaultBrightness()` (R185) -/
  | getDefaultBrightness
  /-- `reset()` (R187), which is not hardware reset (R39) -/
  | reset
  /-- `transmit()` (R188) -/
  | transmit
deriving DecidableEq, Repr

/-- The layer of an instruction: the column "layer" of the opcode table. -/
def Instr.layer : Instr → Layer
  | .wrpix _ _ _ _ _ => .block
  | .clrpix _ => .block
  | .clrall => .block
  | .fill _ _ _ _ => .block
  | .rdpix _ => .block
  | .tx => .block
  | .preamble => .wire
  | .pixelPacket _ _ _ _ => .wire
  | .latch => .wire
  | .setPixelRgbBrightness _ _ _ _ _ => .host
  | .setPixelRgb _ _ _ _ => .host
  | .setPixelColourBrightness _ _ _ => .host
  | .setPixelColour _ _ => .host
  | .clearPixel _ => .host
  | .getPixel _ => .host
  | .clearAll => .host
  | .setAll _ _ _ _ => .host
  | .setGradient _ _ _ _ => .host
  | .setGradientOneBrightness _ _ _ => .host
  | .setGradientOneColour _ _ _ => .host
  | .setGradientFlat _ _ => .host
  | .setAllPixelsList _ _ => .host
  | .setAllPixelsScalar _ _ => .host
  | .setDefaultBrightness _ => .host
  | .getDefaultBrightness => .host
  | .reset => .host
  | .transmit => .host

/-- A call of the host layer: the host issues these, and no wire item (R77: the block sends no item by itself). -/
abbrev HostCall := { i : Instr // i.layer = .host }

end Sys2Proof
end

