-- ==== Sys2Proof/Machine/State.lean ====
section
/-! DEFINITION. The state of the machine (R40) with the ports of R78 and the inputs the outside world gives it, the
reasons a step can stop, and the state after hardware reset (R38, R240). -/

namespace Sys2Proof.Machine

/-- One pixel register (R20): 29 bits, every pattern legal (R21). -/
structure Pixel where
  r : Byte
  g : Byte
  b : Byte
  lvl : Level
deriving DecidableEq, Repr

/-- The all-zero pixel: black, zero brightness (R21). -/
def Pixel.zero : Pixel := ⟨0, 0, 0, 0⟩

/-- The two output lines (R27, R52). -/
inductive Line where
  | clk
  | dat
deriving DecidableEq, Repr

/-- A line operation: set this line to this level (R10). -/
structure LineOp where
  line : Line
  level : Bit
deriving DecidableEq, Repr

/-- The result codes (R86). -/
inductive Code where
  | ok
  | outOfRange
  | lengthMismatch
  | ioFailure
  | illegalCommand
deriving DecidableEq, Repr

/-- What a host-layer operation gives back to its caller (R171, R185, R186, R214). -/
inductive HostResult where
  /-- completed, no value -/
  | ok
  /-- ended with an error -/
  | raised (c : Code)
  /-- what `getPixel` returns: channels, level, and the fraction `lvl/31` -/
  | pixel (red green blue : Byte) (level : Level) (brightness : Rat)
  /-- what `getDefaultBrightness` returns -/
  | brightness (q : Rat)
deriving DecidableEq, Repr

/-- One thing the host does: present a command word at the block's port (R78), or call a host-layer operation (R90). -/
inductive Request where
  | word (w : CmdWord)
  | call (c : HostCall)
deriving DecidableEq, Repr

/-- The answer of the digital output capability to one line operation (R13, R131): performed, or failed with the
selector that says whether the line took the requested level (R149). -/
inductive IoAnswer where
  | performed
  | failed (tookLevel : Bit)
deriving DecidableEq, Repr

/-- The state. `pix` to `nops` are the record of R40. `rsp` is the response port (R78), `ret` and `hostTx` are the host
layer's side of a call. `requests`, `io` and `rst` are inputs: what the host does next, what the digital output
capability answers next, and the levels of the reset input at the next steps. -/
structure State where
  /-- `PIX[0..7]` (R20) -/
  pix : Vector Pixel 8
  /-- `DEFB`, the default brightness, an exact rational (R25) -/
  defb : Rat
  /-- `CLK` (R27) -/
  clk : Bit
  /-- `DAT` (R27) -/
  dat : Bit
  /-- `SEQ` (R30): `none` is `IDLE`, `some n` the index of the next line operation -/
  seq : Option (Fin 937)
  /-- `TRACE` (R35): the line operations performed since hardware reset, oldest first -/
  trace : List LineOp
  /-- `nops` (R40): the line operations attempted since hardware reset -/
  nops : Nat
  /-- `rsp_valid`, `rsp_word` (R78): the response to the command last completed, if none has been accepted since that
  is still running -/
  rsp : Option Word32
  /-- what the last host-layer call gave its caller; `none` while a `transmit()` runs and before the first call -/
  ret : Option HostResult
  /-- the running `TX` was issued by `transmit()`, whose caller waits for it (R188) -/
  hostTx : Bool
  /-- input: what the host issues next, in order; the head waits while the block is busy (R79) -/
  requests : List Request
  /-- input: the answers to the next line operations; past its end the open parameters of R8 answer -/
  io : List IoAnswer
  /-- input: the levels of `rst` (R78) at the next steps; past its end `rst` is low -/
  rst : List Bit
deriving DecidableEq, Repr

/-- The machine has no fault: an error is the result of the operation that raises it and the machine goes on (R214,
R217, R230). The type has no constructor, so no step can end in one. -/
inductive Fault
deriving DecidableEq, Repr

/-- The reasons a step can be refused. -/
inductive Refusal where
  /-- raised by `exec` for an instruction that has no meaning yet; safe. No arm raises it. -/
  | notModelled (mnemonic : String)
deriving DecidableEq, Repr

/-- The state after hardware reset (R38, R240) with nothing issued yet. `CLK` and `DAT` are `LINE_INIT`, an open
parameter (R243). -/
def State.reset : State where
  pix := Vector.replicate 8 Pixel.zero
  defb := 1
  clk := Config.clk0
  dat := Config.dat0
  seq := none
  trace := []
  nops := 0
  rsp := none
  ret := none
  hostTx := false
  requests := []
  io := []
  rst := []

end Sys2Proof.Machine
end

