-- ==== Sys2Proof/Machine/Flags.lean ====
section
/-! DEFINITION. The one status flag, `BUSY`, and the codes of the response word. The block has no other flag: no
operation computes a condition code (R29). -/

namespace Sys2Proof.Machine

/-- `BUSY` (R29): 1 exactly while `SEQ` is not `IDLE`; no storage of its own. -/
def State.busy (s : State) : Bool := s.seq.isSome

/-- `cmd_ready` (R78): the port can accept a command. -/
def State.cmdReady (s : State) : Bool := !s.busy

/-- The number of a result code (R86). -/
def Code.number : Code → BitVec 3
  | .ok => 0
  | .outOfRange => 1
  | .lengthMismatch => 2
  | .ioFailure => 3
  | .illegalCommand => 4

/-- The response word: `code` in bits 31:29, `data` in bits 28:0 (R85). -/
def respWord (c : Code) (data : Packed) : Word32 := c.number ++ data

/-- The `code` field of a response word (R85). -/
def respCode (w : Word32) : BitVec 3 := w.extractLsb' 29 3

/-- The `data` field of a response word (R85). -/
def respData (w : Word32) : Packed := w.extractLsb' 0 29

end Sys2Proof.Machine
end

