-- ==== Sys2Proof/Machine/Ops.lean ====
section
/-! DEFINITION. The shared operations: the pixel registers, a response, an error, one line operation, the end and the
acceptance of a `TX`, and hardware reset. -/

namespace Sys2Proof.Machine

/-! ## Pixels -/

/-- The packed pixel `{lvl, b, g, r}` (R24). -/
def Pixel.pack (p : Pixel) : Packed := p.lvl ++ p.b ++ p.g ++ p.r

/-- The pixel a packed value holds (R24). -/
def Pixel.unpack (d : Packed) : Pixel :=
  ⟨d.extractLsb' 0 8, d.extractLsb' 8 8, d.extractLsb' 16 8, d.extractLsb' 24 5⟩

/-- The pixel indices in the order of every loop of the spec, 0 first. -/
def allIdx : List (Fin 8) := [0, 1, 2, 3, 4, 5, 6, 7]

/-- `PIX[i]` (R11, R23): a read never fails. -/
def State.readPix (s : State) (i : Fin 8) : Pixel := s.pix[i]

/-- `PIX[i] <- p` (R11, R22): all four fields of one register. -/
def State.writePix (i : Fin 8) (p : Pixel) (s : State) : State := { s with pix := s.pix.set i p }

/-- `PIX[i] <- p` for every i (R102, R103). -/
def State.fillPix (p : Pixel) (s : State) : State := { s with pix := Vector.replicate 8 p }

/-! ## Responses and errors -/

/-- `respond(code, data)` of a command that completes in its own step (R85). -/
def respond (c : Code) (data : Packed) (s : State) : State := { s with rsp := some (respWord c data) }

/-- What a host-layer operation gives its caller. -/
def giveBack (r : HostResult) (s : State) : State := { s with ret := some r }

/-- `raise E` in a host-layer operation (R214): the operation ends with the error as its result, and nothing else. -/
def raiseHost (c : Code) (s : State) : State := giveBack (.raised c) s

/-- What a completed or failed `TX` gives the caller of `transmit()` (R188, R213). -/
def txResult : Code → HostResult
  | .ok => .ok
  | c => .raised c

/-- The end of a `TX`: `SEQ <- IDLE` and the response with data 0 (R85, R130, R149); if `transmit()` issued it, its
caller gets the result (R188). -/
def completeTx (c : Code) (s : State) : State :=
  { s with
    seq := none
    rsp := some (respWord c 0)
    ret := if s.hostTx then some (txResult c) else s.ret
    hostTx := false }

/-- The acceptance of `TX` (R31): `SEQ <- 0`, so `BUSY` becomes 1. Its response is still to come. -/
def acceptTx (s : State) : State := { s with seq := some 0, rsp := none, hostTx := false }

/-- The acceptance of the `TX` of a `transmit()` call, whose caller waits (R188). -/
def acceptTransmit (s : State) : State := { s with seq := some 0, rsp := none, hostTx := true, ret := none }

/-! ## One line operation (R131) -/

/-- The answer of the open parameters to the line operation attempted as number `k` (R8, R131). -/
def openAnswer (k : Nat) : IoAnswer := if Config.ioOk k then .performed else .failed (Config.ioFailLevel k)

/-- The answer to the line operation `j` places after the next one: from the input, and past its end from the open
parameters, which `nops` indexes. -/
def State.answerAt (s : State) (j : Nat) : IoAnswer :=
  match s.io[j]? with
  | some a => a
  | none => openAnswer (s.nops + j)

/-- The line takes the level; the other line keeps its own (R131, R52). -/
def State.drive (op : LineOp) (s : State) : State :=
  match op.line with
  | .clk => { s with clk := op.level }
  | .dat => { s with dat := op.level }

/-- The attempt is counted and the answer to it is used up (R40, R131). -/
def State.countOp (s : State) : State := { s with nops := s.nops + 1, io := s.io.tail }

/-- `SEQ <- SEQ + 1` (R31). After operation 936 the increment and the `SEQ <- IDLE` and `OK` of the response are one
step (R131). Outside a frame there is no position to advance. -/
def advanceSeq (s : State) : State :=
  match s.seq with
  | none => s
  | some n => if h : n.val + 1 < 937 then { s with seq := some ⟨n.val + 1, h⟩ } else completeTx .ok s

/-- The result of a piece of a frame: the state, and whether every line operation of it was performed. After a failed
one `IoFailure` has been raised and nothing more of the frame runs (R149). -/
structure Attempt where
  state : State
  done : Bool
deriving DecidableEq, Repr

/-- `LineSet` with a given answer (R131, R149). -/
def lineSetWith (a : IoAnswer) (op : LineOp) (s : State) : Attempt :=
  match a with
  | .performed => ⟨advanceSeq { (s.countOp.drive op) with trace := s.trace ++ [op] }, true⟩
  | .failed took => ⟨completeTx .ioFailure (if took then s.countOp.drive op else s.countOp), false⟩

/-- `LineSet(line, level)` (R131). It is attempted also where the line has the level already (R132). -/
def lineSet (op : LineOp) (s : State) : Attempt := lineSetWith (s.answerAt 0) op s

/-! ## Sequencing of line operations -/

/-- First `p`, then, if nothing failed, `q` (R214). -/
def andThen (p q : State → Attempt) (s : State) : Attempt :=
  if (p s).done then q (p s).state else p s

/-- `for x in xs: f x` (R11), ended by a failure. -/
def forEach {α : Type} (f : α → State → Attempt) : List α → State → Attempt
  | [], s => ⟨s, true⟩
  | x :: xs, s => andThen (f x) (forEach f xs) s

/-- A list of line operations, one after another. -/
def emit (ops : List LineOp) (s : State) : Attempt := forEach lineSet ops s

/-! ## Hardware reset (R240, R242) -/

/-- The level of `rst` at this step: its input's next level, low past its end (DESIGN CHOICE, log entry 4). -/
def State.rstLevel (s : State) : Bit := s.rst.headD false

/-- The level of `rst` at this step is used up. -/
def State.popRst (s : State) : State := { s with rst := s.rst.tail }

/-- Hardware reset. The lines go to `LINE_INIT` where the block is idle (R240) and keep their levels where it stops a
frame (R242), for which no response is sent. The inputs are the outside world's and stay. DESIGN CHOICE (log entry 18): the
spec does not say how long one assertion of `rst` lasts; each step with `rst` high is one, so a second one right after a
reset that stopped a frame finds the block idle and puts the lines at `LINE_INIT`. -/
def hardReset (s : State) : State :=
  { s with
    pix := Vector.replicate 8 Pixel.zero
    defb := 1
    clk := if s.busy then s.clk else Config.clk0
    dat := if s.busy then s.dat else Config.dat0
    seq := none
    trace := []
    nops := 0
    rsp := none
    ret := none
    hostTx := false }

end Sys2Proof.Machine
end

