-- ==== Sys2Proof/Machine/Buffer.lean ====
section
/-! DEFINITION. The pixel register commands (R100 to R105). The `…State` functions are what the command does; the host
layer issues them too. -/

namespace Sys2Proof.Machine

/-- `WRPIX` (R100). -/
def wrpixState (idx : Fin 8) (p : Pixel) (s : State) : State := respond .ok 0 (s.writePix idx p)

/-- `CLRPIX` (R101). -/
def clrpixState (idx : Fin 8) (s : State) : State := respond .ok 0 (s.writePix idx Pixel.zero)

/-- `CLRALL` (R102). -/
def clrallState (s : State) : State := respond .ok 0 (s.fillPix Pixel.zero)

/-- `FILL` (R103). -/
def fillState (p : Pixel) (s : State) : State := respond .ok 0 (s.fillPix p)

/-- `RDPIX` (R104). -/
def rdpixState (idx : Fin 8) (s : State) : State := respond .ok (s.readPix idx).pack s

/-- `WRPIX idx, r, g, b, lvl` (R100). -/
def execWrpix (idx : Fin 8) (r g b : Byte) (lvl : Level) (s : State) : Host.Outcome State Fault Refusal :=
  .next (wrpixState idx ⟨r, g, b, lvl⟩ s)

/-- `CLRPIX idx` (R101). -/
def execClrpix (idx : Fin 8) (s : State) : Host.Outcome State Fault Refusal := .next (clrpixState idx s)

/-- `CLRALL` (R102). -/
def execClrall (s : State) : Host.Outcome State Fault Refusal := .next (clrallState s)

/-- `FILL r, g, b, lvl` (R103). -/
def execFill (r g b : Byte) (lvl : Level) (s : State) : Host.Outcome State Fault Refusal :=
  .next (fillState ⟨r, g, b, lvl⟩ s)

/-- `RDPIX idx` (R104). -/
def execRdpix (idx : Fin 8) (s : State) : Host.Outcome State Fault Refusal := .next (rdpixState idx s)

end Sys2Proof.Machine
end

