-- ==== Sys2Proof/Machine/Operands.lean ====
section
/-! DEFINITION. The operands of the host layer: the checks (R171), the narrowing to command fields (R87), `quantise`
(R170) and `lerp` (R178). -/

namespace Sys2Proof.Machine

/-! ## Checks (R171): the error, or none -/

/-- `chkIndex` -/
def chkIndex (i : Int) : Option Code := if i < 0 ∨ Config.idxMax < i then some .outOfRange else none

/-- `chkChan` -/
def chkChan (c : Int) : Option Code := if c < 0 ∨ Config.chanMax < c then some .outOfRange else none

/-- `chkColour`: the three channels, left to right. -/
def chkColour (c : Colour) : List (Option Code) := [chkChan c.red, chkChan c.green, chkChan c.blue]

/-- `chkBright` -/
def chkBright (q : Rat) : Option Code := if q < 0 ∨ 1 < q then some .outOfRange else none

/-- `chkLen` -/
def chkLen {α : Type} (xs : List α) : Option Code := if xs.length ≠ Config.npix then some .lengthMismatch else none

/-- The first error of the checks of an operation, in their order (R215). -/
def firstError : List (Option Code) → Option Code
  | [] => none
  | some c :: _ => some c
  | none :: rest => firstError rest

/-! ## Narrowing after the check (R87) -/

/-- An index that passed its check, as the 3-bit `idx`. -/
def narrowIndex (i : Int) : Fin 8 := Fin.ofNat 8 i.toNat

/-- A channel that passed its check, as an 8-bit field. -/
def narrowChan (c : Int) : Byte := BitVec.ofInt 8 c

/-- `quantise(q) = floor(q * 31)`, exact (R170). -/
def quantise (q : Rat) : Int := (q * Config.lvlMax).floor

/-- The level field of a brightness that passed its check (R87). -/
def narrowBright (q : Rat) : Level := BitVec.ofInt 5 (quantise q)

/-- A colour and a brightness that passed their checks, as a pixel. -/
def pixelOf (c : Colour) (q : Rat) : Pixel :=
  ⟨narrowChan c.red, narrowChan c.green, narrowChan c.blue, narrowBright q⟩

/-! ## Gradients -/

/-- `lerp(s, e, i) = s + (e - s) * i / 7`, exact (R178). -/
def lerp (s e : Rat) (i : Nat) : Rat := s + (e - s) * i / Config.gradDen

/-- `floor(lerp(s, e, i))`: a channel of pixel i (R180). -/
def gradChan (s e : Int) (i : Nat) : Int := (lerp s e i).floor

/-- The colour of pixel i of a gradient (R179). -/
def gradColour (c0 c1 : Colour) (i : Nat) : Colour :=
  ⟨gradChan c0.red c1.red i, gradChan c0.green c1.green i, gradChan c0.blue c1.blue i⟩

/-- Pixel i of a gradient (R179 to R181): brightness is interpolated before it is quantised. -/
def gradPixel (c0 c1 : Colour) (q0 q1 : Rat) (i : Nat) : Pixel := pixelOf (gradColour c0 c1 i) (lerp q0 q1 i)

end Sys2Proof.Machine
end

