-- ==== Sys2Proof/Machine/Transmit.lean ====
section
/-! DEFINITION. `TX` and the items of the wire frame, as the pseudocode of R131 to R142 has them, run to the response;
and the fine step of R148, one line operation by its number in the closed form of R146. -/

namespace Sys2Proof.Machine

/-! ## The bit-emission sequencer -/

/-- `Pulse()` (R133). -/
def pulse (s : State) : Attempt := andThen (lineSet ⟨.clk, true⟩) (lineSet ⟨.clk, false⟩) s

/-- `EmitBit(v)` (R134). -/
def emitBit (v : Bit) (s : State) : Attempt := andThen (lineSet ⟨.dat, v⟩) pulse s

/-- The bit numbers of a byte in order of transmission, most significant first (R55). -/
def byteBits : List Nat := [7, 6, 5, 4, 3, 2, 1, 0]

/-- `EmitByte(B)` (R135). -/
def emitByte (B : Byte) (s : State) : Attempt := forEach (fun k => emitBit (B.getLsbD k)) byteBits s

/-- The bytes of a word in order of transmission (R136). -/
def wordBytes (W : Word32) : List Byte :=
  [W.extractLsb' 24 8, W.extractLsb' 16 8, W.extractLsb' 8 8, W.extractLsb' 0 8]

/-- `EmitWord(W)` (R136). -/
def emitWord (W : Word32) (s : State) : Attempt := forEach emitByte (wordBytes W) s

/-- `PacketWord(p) = {0b111, p.lvl, p.b, p.g, p.r}` (R139). -/
def packetWord (p : Pixel) : Word32 := Config.flag ++ p.lvl ++ p.b ++ p.g ++ p.r

/-- `Preamble()` (R137). -/
def preambleBody (s : State) : Attempt := forEach emitByte (List.replicate Config.preambleBytes 0) s

/-- `Packet(i)` (R140): `PIX[i]` is read when the packet begins. -/
def packetBody (i : Fin 8) (s : State) : Attempt := emitWord (packetWord (s.readPix i)) s

/-- `Latch()` (R142). -/
def latchBody (s : State) : Attempt :=
  andThen (lineSet ⟨.dat, false⟩) (forEach (fun (_ : Nat) => pulse) (List.range Config.latchPulses)) s

/-- The body of `TX` (R130). The response is part of the last line operation, or of the one that failed. -/
def txBody (s : State) : Attempt := andThen preambleBody (andThen (forEach packetBody allIdx) latchBody) s

/-! ## The meanings -/

/-- `TX` (R130), run to its response. -/
def execTx (s : State) : Host.Outcome State Fault Refusal := .next (txBody (acceptTx s)).state

/-- The preamble of a frame (R71, R137): its 96 line operations. -/
def execPreamble (s : State) : Host.Outcome State Fault Refusal := .next (preambleBody s).state

/-- A pixel packet of a frame (R72, R140): the 96 line operations of its word. -/
def execPixelPacket (r g b : Byte) (lvl : Level) (s : State) : Host.Outcome State Fault Refusal :=
  .next (emitWord (packetWord ⟨r, g, b, lvl⟩) s).state

/-- The latch of a frame (R73, R142): its 73 line operations. -/
def execLatch (s : State) : Host.Outcome State Fault Refusal := .next (latchBody s).state

/-! ## The fine step -/

/-- Word `w` of the frame (R146): 0 is the preamble, `w` in 1..8 the packet of pixel `w-1`. -/
def frameWord (pix : Vector Pixel 8) (w : Nat) : Word32 :=
  if h : 1 ≤ w ∧ w ≤ 8 then packetWord pix[w - 1] else 0

/-- Line operation `n` of the frame, by the table of R146. -/
def frameOp (pix : Vector Pixel 8) (n : Nat) : LineOp :=
  if n ≤ 863 then
    if n % 3 = 0 then ⟨.dat, (frameWord pix (n / 3 / 32)).getLsbD (31 - n / 3 % 32)⟩
    else if n % 3 = 1 then ⟨.clk, true⟩
    else ⟨.clk, false⟩
  else if n = 864 then ⟨.dat, false⟩
  else if n % 2 = 1 then ⟨.clk, true⟩
  else ⟨.clk, false⟩

/-- The fine step while `SEQ` = n (R148): line operation n of the frame. -/
def lineStep (n : Fin 937) (s : State) : State := (lineSet (frameOp s.pix n.val) s).state

end Sys2Proof.Machine
end

