-- ==== Sys2Proof/Machine/HostLayer.lean ====
section
/-! DEFINITION. The host-layer operations (R170 to R188): each checks first and writes after (R171). -/

namespace Sys2Proof.Machine

/-- The two phases of R171: the first error of the checks is raised and nothing else happens, or the operation acts. -/
def checked (checks : List (Option Code)) (act : State → State) (s : State) : State :=
  match firstError checks with
  | some c => raiseHost c s
  | none => act s

/-- Eight `WRPIX`, in the order of the list (R179, R183). -/
def writePixels (ws : List (Fin 8 × Pixel)) (s : State) : State :=
  ws.foldl (fun t w => wrpixState w.1 w.2 t) s

/-! ## Single-pixel operations -/

/-- `setPixel` with a brightness (R172), on a colour. -/
def setPixelState (index : Int) (c : Colour) (q : Rat) : State → State :=
  checked ([chkIndex index] ++ chkColour c ++ [chkBright q])
    fun s => giveBack .ok (wrpixState (narrowIndex index) (pixelOf c q) s)

/-- `setPixel` with the default brightness (R173), which needs no check and is read when the operation runs. -/
def setPixelDefaultState (index : Int) (c : Colour) : State → State :=
  checked ([chkIndex index] ++ chkColour c)
    fun s => giveBack .ok (wrpixState (narrowIndex index) (pixelOf c s.defb) s)

/-- `setPixel(index, red, green, blue, brightness)` (R172). -/
def execSetPixelRgbBrightness (index red green blue : Int) (brightness : Rat) (s : State) :
    Host.Outcome State Fault Refusal :=
  .next (setPixelState index ⟨red, green, blue⟩ brightness s)

/-- `setPixel(index, red, green, blue)` (R173). -/
def execSetPixelRgb (index red green blue : Int) (s : State) : Host.Outcome State Fault Refusal :=
  .next (setPixelDefaultState index ⟨red, green, blue⟩ s)

/-- `setPixel(index, colour, brightness)` (R174). -/
def execSetPixelColourBrightness (index : Int) (colour : Colour) (brightness : Rat) (s : State) :
    Host.Outcome State Fault Refusal :=
  .next (setPixelState index colour brightness s)

/-- `setPixel(index, colour)` (R174). -/
def execSetPixelColour (index : Int) (colour : Colour) (s : State) : Host.Outcome State Fault Refusal :=
  .next (setPixelDefaultState index colour s)

/-- `clearPixel(index)` (R175). -/
def execClearPixel (index : Int) (s : State) : Host.Outcome State Fault Refusal :=
  .next (checked [chkIndex index] (fun t => giveBack .ok (clrpixState (narrowIndex index) t)) s)

/-- What `getPixel` returns for a packed pixel (R186): channels, level, and the fraction `lvl/31`. -/
def pixelResult (d : Packed) : HostResult :=
  let p := Pixel.unpack d
  .pixel p.r p.g p.b p.lvl ((p.lvl.toNat : Rat) / Config.lvlMax)

/-- The data of the response on the port. -/
def State.rspData (s : State) : Packed := respData (s.rsp.getD 0)

/-- The data of the response to an `RDPIX`, given back as a pixel (R186). -/
def giveBackPixel (s : State) : State := giveBack (pixelResult s.rspData) s

/-- `getPixel(index)` (R186). -/
def execGetPixel (index : Int) (s : State) : Host.Outcome State Fault Refusal :=
  .next (checked [chkIndex index] (fun t => giveBackPixel (rdpixState (narrowIndex index) t)) s)

/-! ## Whole-buffer operations -/

/-- `clearAll()` (R176). -/
def execClearAll (s : State) : Host.Outcome State Fault Refusal := .next (giveBack .ok (clrallState s))

/-- `setAll(red, green, blue, brightness)` (R177). -/
def execSetAll (red green blue : Int) (brightness : Rat) (s : State) : Host.Outcome State Fault Refusal :=
  .next (checked (chkColour ⟨red, green, blue⟩ ++ [chkBright brightness])
    (fun t => giveBack .ok (fillState (pixelOf ⟨red, green, blue⟩ brightness) t)) s)

/-- The canonical gradient (R179). -/
def setGradientState (c0 c1 : Colour) (q0 q1 : Rat) : State → State :=
  checked (chkColour c0 ++ chkColour c1 ++ [chkBright q0, chkBright q1])
    fun s => giveBack .ok (writePixels (allIdx.map fun i => (i, gradPixel c0 c1 q0 q1 i.val)) s)

/-- `setGradient(startColor, endColor, startBrightness, endBrightness)` (R179). -/
def execSetGradient (startColor endColor : Colour) (startBrightness endBrightness : Rat) (s : State) :
    Host.Outcome State Fault Refusal :=
  .next (setGradientState startColor endColor startBrightness endBrightness s)

/-- `setGradient(startColor, endColor, brightness)` (R182). -/
def execSetGradientOneBrightness (startColor endColor : Colour) (brightness : Rat) (s : State) :
    Host.Outcome State Fault Refusal :=
  .next (setGradientState startColor endColor brightness brightness s)

/-- `setGradient(colour, startBrightness, endBrightness)` (R182). -/
def execSetGradientOneColour (colour : Colour) (startBrightness endBrightness : Rat) (s : State) :
    Host.Outcome State Fault Refusal :=
  .next (setGradientState colour colour startBrightness endBrightness s)

/-- `setGradient(colour, brightness)` (R182). -/
def execSetGradientFlat (colour : Colour) (brightness : Rat) (s : State) : Host.Outcome State Fault Refusal :=
  .next (setGradientState colour colour brightness brightness s)

/-- Element i of each list for pixel i (R183). -/
def listPixels (colours : List Colour) (brightnesses : List Rat) : List (Fin 8 × Pixel) :=
  allIdx.zip ((colours.zip brightnesses).map fun cq => pixelOf cq.1 cq.2)

/-- `setAllPixels(colours, brightnesses)` (R183): the lengths first (R215). -/
def execSetAllPixelsList (colours : List Colour) (brightnesses : List Rat) (s : State) :
    Host.Outcome State Fault Refusal :=
  .next (checked ([chkLen colours, chkLen brightnesses] ++ colours.flatMap chkColour ++ brightnesses.map chkBright)
    (fun t => giveBack .ok (writePixels (listPixels colours brightnesses) t)) s)

/-- `setAllPixels(colours, brightness)` (R183): one brightness for every pixel. -/
def execSetAllPixelsScalar (colours : List Colour) (brightness : Rat) (s : State) :
    Host.Outcome State Fault Refusal :=
  .next (checked ([chkLen colours] ++ colours.flatMap chkColour ++ [chkBright brightness])
    (fun t => giveBack .ok (writePixels (allIdx.zip (colours.map fun c => pixelOf c brightness)) t)) s)

/-! ## The default brightness -/

/-- `setDefaultBrightness(value)` (R184): stored exactly, no command issued. -/
def execSetDefaultBrightness (value : Rat) (s : State) : Host.Outcome State Fault Refusal :=
  .next (checked [chkBright value] (fun t => giveBack .ok { t with defb := value }) s)

/-- `getDefaultBrightness()` (R185). -/
def execGetDefaultBrightness (s : State) : Host.Outcome State Fault Refusal :=
  .next (giveBack (.brightness s.defb) s)

/-! ## The driver operations -/

/-- `reset()` (R187, R39): no line operation. -/
def execReset (s : State) : Host.Outcome State Fault Refusal := .next (giveBack .ok { clrallState s with defb := 1 })

/-- `transmit()` (R188): one `TX`, run to its response, whose code is the result. -/
def execTransmit (s : State) : Host.Outcome State Fault Refusal := .next (txBody (acceptTransmit s)).state

end Sys2Proof.Machine
end

