-- ==== Sys2Proof/Machine/Dispatch.lean ====
section
/-! DEFINITION. One arm per instruction: the coarse step of R12, an instruction run to its response. -/

namespace Sys2Proof.Machine

def exec (i : Instr) (s : State) : Host.Outcome State Fault Refusal :=
  match i with
  -- the block's commands
  | .wrpix idx r g b lvl => Sys2Proof.Machine.execWrpix idx r g b lvl s
  | .clrpix idx => Sys2Proof.Machine.execClrpix idx s
  | .clrall => Sys2Proof.Machine.execClrall s
  | .fill r g b lvl => Sys2Proof.Machine.execFill r g b lvl s
  | .rdpix idx => Sys2Proof.Machine.execRdpix idx s
  | .tx => Sys2Proof.Machine.execTx s
  -- the items of the wire frame
  | .preamble => Sys2Proof.Machine.execPreamble s
  | .pixelPacket r g b lvl => Sys2Proof.Machine.execPixelPacket r g b lvl s
  | .latch => Sys2Proof.Machine.execLatch s
  -- the host layer
  | .setPixelRgbBrightness index red green blue brightness => Sys2Proof.Machine.execSetPixelRgbBrightness index red green blue brightness s
  | .setPixelRgb index red green blue => Sys2Proof.Machine.execSetPixelRgb index red green blue s
  | .setPixelColourBrightness index colour brightness => Sys2Proof.Machine.execSetPixelColourBrightness index colour brightness s
  | .setPixelColour index colour => Sys2Proof.Machine.execSetPixelColour index colour s
  | .clearPixel index => Sys2Proof.Machine.execClearPixel index s
  | .getPixel index => Sys2Proof.Machine.execGetPixel index s
  | .clearAll => Sys2Proof.Machine.execClearAll s
  | .setAll red green blue brightness => Sys2Proof.Machine.execSetAll red green blue brightness s
  | .setGradient startColor endColor startBrightness endBrightness => Sys2Proof.Machine.execSetGradient startColor endColor startBrightness endBrightness s
  | .setGradientOneBrightness startColor endColor brightness => Sys2Proof.Machine.execSetGradientOneBrightness startColor endColor brightness s
  | .setGradientOneColour colour startBrightness endBrightness => Sys2Proof.Machine.execSetGradientOneColour colour startBrightness endBrightness s
  | .setGradientFlat colour brightness => Sys2Proof.Machine.execSetGradientFlat colour brightness s
  | .setAllPixelsList colours brightnesses => Sys2Proof.Machine.execSetAllPixelsList colours brightnesses s
  | .setAllPixelsScalar colours brightness => Sys2Proof.Machine.execSetAllPixelsScalar colours brightness s
  | .setDefaultBrightness value => Sys2Proof.Machine.execSetDefaultBrightness value s
  | .getDefaultBrightness => Sys2Proof.Machine.execGetDefaultBrightness s
  | .reset => Sys2Proof.Machine.execReset s
  | .transmit => Sys2Proof.Machine.execTransmit s

end Sys2Proof.Machine
end

