-- ==== Sys2Proof/Decode.lean ====
section
/-! DEFINITION. Decoding of command words (R80 to R84) and of wire words (R71 to R73), and after it the encoder (R89). -/

namespace Sys2Proof

/-- Why a code word is no instruction. On the port each of the first two is answered `IllegalCommand` (R83). -/
inductive DecodeError where
  /-- an `op` of the reserved space `0x00`, `0x07` to `0xFF` (R83) -/
  | reservedOpcode (op : BitVec 8)
  /-- a defined `op` with a 1 in a must-be-zero bit of R81 -/
  | mustBeZero (mnemonic : String)
  /-- a 32-bit wire word that is neither the preamble nor flagged `0b111` (R77) -/
  | noWireItem (w : Word32)
  /-- 36 sampled bits that are not the latch's zeros (R73) -/
  | noLatch (w : BitVec 36)
deriving DecidableEq, Repr

/-! ## The fields (R80, R72) -/

/-- `op`, bits 39:32 of a command word. -/
def fieldOp (w : CmdWord) : BitVec 8 := w.extractLsb' 32 8

/-- `idx`, bits 31:29 of a command word. -/
def fieldIdx (w : CmdWord) : Fin 8 := ⟨(w.extractLsb' 29 3).toNat, (w.extractLsb' 29 3).isLt⟩

/-- `lvl`, bits 28:24 of a command word or of a packet. -/
def fieldLvl {n : Nat} (w : BitVec n) : Level := w.extractLsb' 24 5

/-- `b`, bits 23:16. -/
def fieldB {n : Nat} (w : BitVec n) : Byte := w.extractLsb' 16 8

/-- `g`, bits 15:8. -/
def fieldG {n : Nat} (w : BitVec n) : Byte := w.extractLsb' 8 8

/-- `r`, bits 7:0. -/
def fieldR {n : Nat} (w : BitVec n) : Byte := w.extractLsb' 0 8

/-- The must-be-zero check of R81: the command, if the bits are zero. -/
def ifZero {n : Nat} (bits : BitVec n) (mnemonic : String) (i : Instr) : Except DecodeError Instr :=
  if bits = 0 then .ok i else .error (.mustBeZero mnemonic)

/-- R84: the command a 40-bit word is, or why it is none. -/
def decodeCommand (w : CmdWord) : Except DecodeError Instr :=
  if fieldOp w = 0x01#8 then .ok (.wrpix (fieldIdx w) (fieldR w) (fieldG w) (fieldB w) (fieldLvl w))
  else if fieldOp w = 0x02#8 then ifZero (w.extractLsb' 0 29) "CLRPIX" (.clrpix (fieldIdx w))
  else if fieldOp w = 0x03#8 then ifZero (w.extractLsb' 0 32) "CLRALL" .clrall
  else if fieldOp w = 0x04#8 then
    ifZero (w.extractLsb' 29 3) "FILL" (.fill (fieldR w) (fieldG w) (fieldB w) (fieldLvl w))
  else if fieldOp w = 0x05#8 then ifZero (w.extractLsb' 0 29) "RDPIX" (.rdpix (fieldIdx w))
  else if fieldOp w = 0x06#8 then ifZero (w.extractLsb' 0 32) "TX" .tx
  else .error (.reservedOpcode (fieldOp w))

/-- The wire item a 32-bit word of the wire is (R71, R72). -/
def decodeWire (w : Word32) : Except DecodeError Instr :=
  if w = 0 then .ok .preamble
  else if w.extractLsb' 29 3 = Config.flag then .ok (.pixelPacket (fieldR w) (fieldG w) (fieldB w) (fieldLvl w))
  else .error (.noWireItem w)

/-- The latch, as the 36 zero bits a rising-edge receiver reads it as (R73). -/
def decodeLatch (w : BitVec 36) : Except DecodeError Instr :=
  if w = 0 then .ok .latch else .error (.noLatch w)

/-- The decoder, total on every code word. -/
def decode : CodeWord → Except DecodeError Instr
  | .command w => decodeCommand w
  | .wire w => decodeWire w
  | .latch w => decodeLatch w

/-! ## The encoder (R89, R71 to R73) -/

/-- `{op, idx, lvl, b, g, r}` (R80). -/
def commandWord (op : BitVec 8) (idx : BitVec 3) (lvl : Level) (b g r : Byte) : CmdWord :=
  op ++ idx ++ lvl ++ b ++ g ++ r

/-- The code word of an instruction; a host-layer operation has none (R92: its encoding is `-`). -/
def encode : Instr → Option CodeWord
  | .wrpix idx r g b lvl => some (.command (commandWord 0x01#8 (BitVec.ofNat 3 idx.val) lvl b g r))
  | .clrpix idx => some (.command (commandWord 0x02#8 (BitVec.ofNat 3 idx.val) 0 0 0 0))
  | .clrall => some (.command (commandWord 0x03#8 0 0 0 0 0))
  | .fill r g b lvl => some (.command (commandWord 0x04#8 0 lvl b g r))
  | .rdpix idx => some (.command (commandWord 0x05#8 (BitVec.ofNat 3 idx.val) 0 0 0 0))
  | .tx => some (.command (commandWord 0x06#8 0 0 0 0 0))
  | .preamble => some (.wire 0)
  | .pixelPacket r g b lvl => some (.wire (Config.flag ++ lvl ++ b ++ g ++ r))
  | .latch => some (.latch 0)
  | .setPixelRgbBrightness _ _ _ _ _ => none
  | .setPixelRgb _ _ _ _ => none
  | .setPixelColourBrightness _ _ _ => none
  | .setPixelColour _ _ => none
  | .clearPixel _ => none
  | .getPixel _ => none
  | .clearAll => none
  | .setAll _ _ _ _ => none
  | .setGradient _ _ _ _ => none
  | .setGradientOneBrightness _ _ _ => none
  | .setGradientOneColour _ _ _ => none
  | .setGradientFlat _ _ => none
  | .setAllPixelsList _ _ => none
  | .setAllPixelsScalar _ _ => none
  | .setDefaultBrightness _ => none
  | .getDefaultBrightness => none
  | .reset => none
  | .transmit => none

/-! ## The opcode map as mask and match (R81) -/

/-- `mask` and `match` of the six rows of R81, in the table's order. -/
def commandRows : List (CmdWord × CmdWord) :=
  [(0xFF00000000#40, 0x0100000000#40), (0xFF1FFFFFFF#40, 0x0200000000#40), (0xFFFFFFFFFF#40, 0x0300000000#40),
   (0xFFE0000000#40, 0x0400000000#40), (0xFF1FFFFFFF#40, 0x0500000000#40), (0xFFFFFFFFFF#40, 0x0600000000#40)]

/-- A word selects a row exactly when `(w & mask) == match` (R81). -/
def selectsRow (w : CmdWord) (row : CmdWord × CmdWord) : Bool := w &&& row.1 == row.2

/-! ## Words as spec/opcode_table.json numbers them -/

/-- The code word of `nbits` bits with value `w`. The table gives the latch 36 bits, in whole bytes 40: a 40-bit word
that is no command and is all zero is read as the latch's row (log entry 9); the port itself answers it
`IllegalCommand` (R83). -/
def tableCodeWord (nbits w : Nat) : Option CodeWord :=
  if 2 ^ nbits ≤ w then none
  else if nbits = 32 then some (.wire (BitVec.ofNat 32 w))
  else if nbits = 36 then some (.latch (BitVec.ofNat 36 w))
  else if nbits = 40 then (if w = 0 then some (.latch 0) else some (.command (BitVec.ofNat 40 w)))
  else none

/-- The instruction the decoder reads from the bits `w` of a table row of `nbits` bits. -/
def decodeTableWord (nbits w : Nat) : Option Instr :=
  match tableCodeWord nbits w with
  | none => none
  | some cw => (decode cw).toOption

end Sys2Proof
end

