-- ==== Sys2Proof/Machine/Fetch.lean ====
section
/-! DEFINITION. What runs next: the host's next request, decoded (R79, R84), or the wire item the sequencer is in (R32);
and how a word of the opcode table is put where the next step takes it. -/

namespace Sys2Proof.Machine

/-- The instruction a request stands for; none for a word that is no command (R83). -/
def requestInstr : Request → Option Instr
  | .word w => (decodeCommand w).toOption
  | .call c => some c.val

/-- The answer to an illegal command word (R83): the response and no other change. -/
def answerIllegal (s : State) : State := respond .illegalCommand 0 s

/-- The instructions that hold `BUSY` from acceptance to response (R79): the state after their acceptance, from which
the fine step goes on (R31, R148). None for an instruction that completes in its own step. -/
def startTx : Instr → State → Option State
  | .tx, s => some (acceptTx s)
  | .transmit, s => some (acceptTransmit s)
  | _, _ => none

/-- The wire item line operation `n` of a frame belongs to (R32, R146). -/
def itemAt (pix : Vector Pixel 8) (n : Nat) : Instr :=
  if n < 96 then .preamble
  else if h : n < 864 then
    let p := pix[n / 96 - 1]
    .pixelPacket p.r p.g p.b p.lvl
  else .latch

/-- The first line operation of the item `n` belongs to (R146). -/
def itemStart (n : Nat) : Nat := if n < 864 then 96 * (n / 96) else 864

/-- A state whose next step takes the code word: a command word, legal or not, at the head of the idle port; a wire item
as the one the sequencer comes to, for a packet that of pixel 0. The reset input is low at that step. A word that is no
wire item has no place in the machine (R77), and leaves the state as it is. -/
def placeWord (cw : CodeWord) (s : State) : State :=
  let t : State := { s with rst := false :: s.rst }
  match cw, decode cw with
  | .command w, _ => { t with seq := none, hostTx := false, requests := .word w :: s.requests }
  | _, .ok .preamble => { t with seq := some 0 }
  | _, .ok (.pixelPacket r g b lvl) => { t with seq := some 96, pix := s.pix.set 0 ⟨r, g, b, lvl⟩ }
  | _, .ok .latch => { t with seq := some 864 }
  | _, _ => s

end Sys2Proof.Machine
end

