-- ==== Sys2Proof/Machine/Step.lean ====
section
/-! DEFINITION. One step: hardware reset, or one line operation of the running frame, or the acceptance of the host's
next request, which every request but a `TX` completes in (R12, R79, R148). -/

namespace Sys2Proof.Machine

/-- An accepted instruction: `TX` and `transmit()` begin their frame, any other runs to its response (R79). -/
def issue (i : Instr) (s : State) : Host.Outcome State Fault Refusal :=
  match startTx i s with
  | some t => .next t
  | none => exec i s

/-- An accepted request (R79, R83). -/
def serve (q : Request) (s : State) : Host.Outcome State Fault Refusal :=
  match requestInstr q with
  | some i => issue i s
  | none => .next (answerIllegal s)

/-- The idle block takes the host's next request, or waits for one (R240). -/
def idleStep (s : State) : Host.Outcome State Fault Refusal :=
  match s.requests with
  | [] => .next s
  | q :: rest => serve q { s with requests := rest }

/-- One step without reset: while `SEQ` = n exactly the line operation n (R148), else the port. -/
def runStep (s : State) : Host.Outcome State Fault Refusal :=
  match s.seq with
  | some n => .next (lineStep n s)
  | none => idleStep s

/-- One step: hardware reset at every step with `rst` high, each a reset of its own (DESIGN CHOICE, log entry 18), else
`runStep`. -/
def step (s : State) : Host.Outcome State Fault Refusal :=
  if s.rstLevel then .next (hardReset s.popRst) else runStep s.popRst

/-- `s` with the word of an opcode-table row placed where the next step takes it. -/
def State.withFetchWord (s : State) (nbits w : Nat) : State :=
  match tableCodeWord nbits w with
  | some cw => placeWord cw s
  | none => s

end Sys2Proof.Machine
end

