-- ==== Sys2Proof/Machine/Lowering.lean ====
section
/-! DEFINITION. The expansions of the host-layer operations into commands, as the table of R91 has them, and the run of a
list of instructions. The meanings do not use them; claims compare the two. -/

namespace Sys2Proof.Machine

/-- `WRPIX` with the fields of a colour and a level (R91). -/
def lowerPixel (idx : Fin 8) (c : Colour) (level : Int) : Instr :=
  .wrpix idx (narrowChan c.red) (narrowChan c.green) (narrowChan c.blue) (BitVec.ofInt 5 level)

/-- The eight `WRPIX` of a gradient, with the integer form of R180 and the level form of R181. -/
def lowerGradient (c0 c1 : Colour) (q0 q1 : Rat) : List Instr :=
  allIdx.map fun i =>
    let mix := fun (s e : Int) => (s * (7 - i.val) + e * i.val) / 7
    lowerPixel i ⟨mix c0.red c1.red, mix c0.green c1.green, mix c0.blue c1.blue⟩
      (31 * (q0 * (7 - i.val) + q1 * i.val) / 7).floor

/-- The commands an operation issues after its checks pass, with the present default brightness (R91). -/
def lowering : Instr → Rat → List Instr
  | .setPixelRgbBrightness i r g b q, _ => [lowerPixel (narrowIndex i) ⟨r, g, b⟩ (31 * q).floor]
  | .setPixelRgb i r g b, defb => [lowerPixel (narrowIndex i) ⟨r, g, b⟩ (31 * defb).floor]
  | .setPixelColourBrightness i c q, _ => [lowerPixel (narrowIndex i) c (31 * q).floor]
  | .setPixelColour i c, defb => [lowerPixel (narrowIndex i) c (31 * defb).floor]
  | .clearPixel i, _ => [.clrpix (narrowIndex i)]
  | .getPixel i, _ => [.rdpix (narrowIndex i)]
  | .clearAll, _ => [.clrall]
  | .setAll r g b q, _ => [.fill (narrowChan r) (narrowChan g) (narrowChan b) (BitVec.ofInt 5 (31 * q).floor)]
  | .setGradient c0 c1 q0 q1, _ => lowerGradient c0 c1 q0 q1
  | .setGradientOneBrightness c0 c1 q, _ => lowerGradient c0 c1 q q
  | .setGradientOneColour c q0 q1, _ => lowerGradient c c q0 q1
  | .setGradientFlat c q, _ => lowerGradient c c q q
  | .setAllPixelsList cs qs, _ =>
    (allIdx.zip (cs.zip qs)).map fun x => lowerPixel x.1 x.2.1 (31 * x.2.2).floor
  | .setAllPixelsScalar cs q, _ => (allIdx.zip cs).map fun x => lowerPixel x.1 x.2 (31 * q).floor
  | .setDefaultBrightness _, _ => []
  | .getDefaultBrightness, _ => []
  | .reset, _ => [.clrall]
  | .transmit, _ => [.tx]
  | i, _ => [i]

/-- Instructions one after another, each run to its response, up to the first that stops. -/
def execAll : List Instr → State → Host.Outcome State Fault Refusal
  | [], s => .next s
  | i :: rest, s =>
    match exec i s with
    | .next t => execAll rest t
    | .fault f => .fault f
    | .refused r => .refused r

end Sys2Proof.Machine
end

