-- ==== Sys2Proof/Machine/Observe.lean ====
section
/-! DEFINITION. The frame as a list (R145) and what a receiver samples (R151): pure functions the claims speak in. -/

namespace Sys2Proof.Machine

/-- `Cell(v)` (R145, R74). -/
def cell (v : Bit) : List LineOp := [⟨.dat, v⟩, ⟨.clk, true⟩, ⟨.clk, false⟩]

/-- `ByteOps(B)` (R145). -/
def byteOps (B : Byte) : List LineOp := byteBits.flatMap fun k => cell (B.getLsbD k)

/-- `WordOps(W)` (R145). -/
def wordOps (W : Word32) : List LineOp := (wordBytes W).flatMap byteOps

/-- `PulseOps` (R145). -/
def pulseOps : List LineOp := [⟨.clk, true⟩, ⟨.clk, false⟩]

/-- `rep(n, xs)` (R11). -/
def rep {α : Type} (n : Nat) (xs : List α) : List α := (List.replicate n xs).flatten

/-- The latch as a list (R73, R145). -/
def latchOps : List LineOp := ⟨.dat, false⟩ :: rep Config.latchPulses pulseOps

/-- `FrameOps(PIX)` (R145). -/
def frameOps (pix : Vector Pixel 8) : List LineOp :=
  wordOps 0 ++ allIdx.flatMap (fun i => wordOps (packetWord pix[i])) ++ latchOps

/-- The line operations of a wire item (R71 to R74); no other instruction is one. -/
def itemOps : Instr → List LineOp
  | .preamble => wordOps 0
  | .pixelPacket r g b lvl => wordOps (packetWord ⟨r, g, b, lvl⟩)
  | .latch => latchOps
  | _ => []

/-- `Rx(clk, dat, ops)` (R151): a bit is sampled when `CLK` goes from 0 to 1. -/
def rx : Bit → Bit → List LineOp → List Bit
  | _, _, [] => []
  | clk, _, ⟨.dat, v⟩ :: rest => rx clk v rest
  | false, dat, ⟨.clk, true⟩ :: rest => dat :: rx true dat rest
  | true, dat, ⟨.clk, true⟩ :: rest => rx true dat rest
  | _, dat, ⟨.clk, false⟩ :: rest => rx false dat rest

/-- The bits of a word, bit 31 first (R136). -/
def wordBits (W : Word32) : List Bit := (List.range 32).map fun j => W.getLsbD (31 - j)

/-- `FrameBits(PIX)` (R152): 32 zeros, the eight packets, 36 zeros. -/
def frameBits (pix : Vector Pixel 8) : List Bit :=
  List.replicate 32 false ++ allIdx.flatMap (fun i => wordBits (packetWord pix[i])) ++ List.replicate 36 false

/-- The bytes ahead of the latch (R75). -/
def frameBytes (pix : Vector Pixel 8) : List Byte :=
  [0, 0, 0, 0] ++ allIdx.flatMap fun i => [0xE0#8 ||| pix[i].lvl.setWidth 8, pix[i].b, pix[i].g, pix[i].r]

/-- The bits of a byte, bit 7 first (R55). -/
def byteBitList (B : Byte) : List Bit := byteBits.map fun k => B.getLsbD k

/-- The levels of `CLK` and `DAT` after a list of performed line operations (R27, R131). -/
def levelsAfter (clk dat : Bit) : List LineOp → Bit × Bit
  | [] => (clk, dat)
  | ⟨.clk, v⟩ :: rest => levelsAfter v dat rest
  | ⟨.dat, v⟩ :: rest => levelsAfter clk v rest

/-- Every operation on `DAT` is performed while `CLK` is 0 (R134, R152). -/
def datStable (clk : Bit) : List LineOp → Bool
  | [] => true
  | ⟨.clk, v⟩ :: rest => datStable v rest
  | ⟨.dat, _⟩ :: rest => !clk && datStable clk rest

/-- The number of 1 bits of a pixel's fields (R147). -/
def popcount (p : Pixel) : Nat := (List.range 29).countP fun k => p.pack.getLsbD k

end Sys2Proof.Machine
end

