-- ==== Sys2Proof/WellFormed.lean ====
section
/-! DEFINITION. Well-formed instructions: the bounds of R211 and the array length of R212. An ill-formed host-layer
call still runs; its meaning is the error (R171). A command and a wire item have exact-width fields, so each of them is
well formed (R21, R58, R86). -/

namespace Sys2Proof

/-- An index in [0, 7] (R51). -/
def indexOk (i : Int) : Bool := decide (0 ≤ i ∧ i ≤ 7)

/-- A channel in [0, 255] (R20). -/
def chanOk (c : Int) : Bool := decide (0 ≤ c ∧ c ≤ 255)

/-- Three channels in bounds. -/
def colourOk (c : Colour) : Bool := chanOk c.red && chanOk c.green && chanOk c.blue

/-- A fractional brightness, a `Frac` (R10). -/
def brightOk (q : Rat) : Bool := decide (0 ≤ q ∧ q ≤ 1)

/-- The arrays of an instruction have length 8 (R212). -/
def Instr.lengthsOk : Instr → Bool
  | .wrpix _ _ _ _ _ => true
  | .clrpix _ => true
  | .clrall => true
  | .fill _ _ _ _ => true
  | .rdpix _ => true
  | .tx => true
  | .preamble => true
  | .pixelPacket _ _ _ _ => true
  | .latch => true
  | .setPixelRgbBrightness _ _ _ _ _ => true
  | .setPixelRgb _ _ _ _ => true
  | .setPixelColourBrightness _ _ _ => true
  | .setPixelColour _ _ => true
  | .clearPixel _ => true
  | .getPixel _ => true
  | .clearAll => true
  | .setAll _ _ _ _ => true
  | .setGradient _ _ _ _ => true
  | .setGradientOneBrightness _ _ _ => true
  | .setGradientOneColour _ _ _ => true
  | .setGradientFlat _ _ => true
  | .setAllPixelsList cs qs => cs.length == 8 && qs.length == 8
  | .setAllPixelsScalar cs _ => cs.length == 8
  | .setDefaultBrightness _ => true
  | .getDefaultBrightness => true
  | .reset => true
  | .transmit => true

/-- The numeric operands of an instruction are within their bounds (R211). -/
def Instr.operandsOk : Instr → Bool
  | .wrpix _ _ _ _ _ => true
  | .clrpix _ => true
  | .clrall => true
  | .fill _ _ _ _ => true
  | .rdpix _ => true
  | .tx => true
  | .preamble => true
  | .pixelPacket _ _ _ _ => true
  | .latch => true
  | .setPixelRgbBrightness i r g b q => indexOk i && chanOk r && chanOk g && chanOk b && brightOk q
  | .setPixelRgb i r g b => indexOk i && chanOk r && chanOk g && chanOk b
  | .setPixelColourBrightness i c q => indexOk i && colourOk c && brightOk q
  | .setPixelColour i c => indexOk i && colourOk c
  | .clearPixel i => indexOk i
  | .getPixel i => indexOk i
  | .clearAll => true
  | .setAll r g b q => chanOk r && chanOk g && chanOk b && brightOk q
  | .setGradient c0 c1 q0 q1 => colourOk c0 && colourOk c1 && brightOk q0 && brightOk q1
  | .setGradientOneBrightness c0 c1 q => colourOk c0 && colourOk c1 && brightOk q
  | .setGradientOneColour c q0 q1 => colourOk c && brightOk q0 && brightOk q1
  | .setGradientFlat c q => colourOk c && brightOk q
  | .setAllPixelsList cs qs => cs.all colourOk && qs.all brightOk
  | .setAllPixelsScalar cs q => cs.all colourOk && brightOk q
  | .setDefaultBrightness q => brightOk q
  | .getDefaultBrightness => true
  | .reset => true
  | .transmit => true

/-- Well-formed: lengths and bounds. -/
def Instr.wf (i : Instr) : Bool := i.lengthsOk && i.operandsOk

end Sys2Proof
end

