-- ==== Sys2Proof/Safety.lean ====
section
/-! DEFINITION. The terms claims are stated in: what two states agree on, what the environment answers, runs, and the
invariant of the machine. -/

namespace Sys2Proof

/-! ## Kinds of instruction -/

/-- The commands that read or write the pixel registers (R105). -/
def Instr.pixelCommand : Instr → Bool
  | .wrpix _ _ _ _ _ => true
  | .clrpix _ => true
  | .clrall => true
  | .fill _ _ _ _ => true
  | .rdpix _ => true
  | .tx => false
  | .preamble => false
  | .pixelPacket _ _ _ _ => false
  | .latch => false
  | .setPixelRgbBrightness _ _ _ _ _ => false
  | .setPixelRgb _ _ _ _ => false
  | .setPixelColourBrightness _ _ _ => false
  | .setPixelColour _ _ => false
  | .clearPixel _ => false
  | .getPixel _ => false
  | .clearAll => false
  | .setAll _ _ _ _ => false
  | .setGradient _ _ _ _ => false
  | .setGradientOneBrightness _ _ _ => false
  | .setGradientOneColour _ _ _ => false
  | .setGradientFlat _ _ => false
  | .setAllPixelsList _ _ => false
  | .setAllPixelsScalar _ _ => false
  | .setDefaultBrightness _ => false
  | .getDefaultBrightness => false
  | .reset => false
  | .transmit => false

/-- The instructions that write pixel registers (R22, R82), the host-layer operations among them by their expansion
(R91). -/
def Instr.writesPixels : Instr → Bool
  | .wrpix _ _ _ _ _ => true
  | .clrpix _ => true
  | .clrall => true
  | .fill _ _ _ _ => true
  | .rdpix _ => false
  | .tx => false
  | .preamble => false
  | .pixelPacket _ _ _ _ => false
  | .latch => false
  | .setPixelRgbBrightness _ _ _ _ _ => true
  | .setPixelRgb _ _ _ _ => true
  | .setPixelColourBrightness _ _ _ => true
  | .setPixelColour _ _ => true
  | .clearPixel _ => true
  | .getPixel _ => false
  | .clearAll => true
  | .setAll _ _ _ _ => true
  | .setGradient _ _ _ _ => true
  | .setGradientOneBrightness _ _ _ => true
  | .setGradientOneColour _ _ _ => true
  | .setGradientFlat _ _ => true
  | .setAllPixelsList _ _ => true
  | .setAllPixelsScalar _ _ => true
  | .setDefaultBrightness _ => false
  | .getDefaultBrightness => false
  | .reset => true
  | .transmit => false

end Sys2Proof

namespace Sys2Proof.Machine

/-! ## What two states agree on -/

/-- The two lines, the sequencer and the record of line operations are the same. -/
def SameWire (s t : State) : Prop :=
  t.clk = s.clk ∧ t.dat = s.dat ∧ t.seq = s.seq ∧ t.trace = s.trace ∧ t.nops = s.nops

/-- The inputs are the same. -/
def SameInputs (s t : State) : Prop := t.requests = s.requests ∧ t.io = s.io ∧ t.rst = s.rst

/-- The host layer's side of a call is the same. -/
def SameCall (s t : State) : Prop := t.ret = s.ret ∧ t.hostTx = s.hostTx

/-- Everything but the pixel registers and the response is the same: what a pixel command leaves (R105). -/
def OnlyPixAndRsp (s t : State) : Prop := t.defb = s.defb ∧ SameWire s t ∧ SameCall s t ∧ SameInputs s t

/-- Everything but the pixel registers, the response and the result is the same: what a buffer operation leaves. -/
def OnlyPixRspRet (s t : State) : Prop := t.defb = s.defb ∧ SameWire s t ∧ t.hostTx = s.hostTx ∧ SameInputs s t

/-! ## The environment -/

/-- The next `k` line operations are all performed (R230: "no line operation failed"). -/
def State.allPerformed (s : State) (k : Nat) : Prop := ∀ j < k, s.answerAt j = .performed

/-- Line operation `f` of the coming ones is the first that fails, with the given selector (R150). -/
def State.firstFailure (s : State) (f : Nat) (took : Bit) : Prop :=
  s.allPerformed f ∧ s.answerAt f = .failed took

/-- `rst` stays low for the next `k` steps. -/
def State.rstQuiet (s : State) (k : Nat) : Prop := ∀ b ∈ s.rst.take k, b = false

/-- `k` steps of the machine. -/
def run (k : Nat) (s : State) : Host.Outcome State Fault Refusal := Host.Core.run core k s

/-! ## The invariant -/

/-- The response on the port, if any, is one the block gives: `OK`, or `IoFailure` or `IllegalCommand` with data 0
(R85, R86). -/
def State.rspLegal (s : State) : Prop :=
  ∀ w, s.rsp = some w →
    respCode w = Code.ok.number ∨ w = respWord .ioFailure 0 ∨ w = respWord .illegalCommand 0

/-- While `SEQ` = n the trace ends with the first n line operations of the frame of the present pixels (R31, R64), and
the lines have the levels those operations leave. -/
def State.midFrame (s : State) : Prop :=
  ∀ n, s.seq = some n →
    (∃ before, s.trace = before ++ (frameOps s.pix).take n.val) ∧
      ∃ clk dat, levelsAfter clk dat ((frameOps s.pix).take n.val) = (s.clk, s.dat)

/-- The invariant: the default brightness is a `Frac` (R26); a call waits for a `TX` only while the block is busy (R188; the
field is the model's, log entry 6); while the block is busy no response stands on the port (R79; that acceptance empties the
port is log entry 5); no more operations were performed than attempted (R35, R40); what a running frame has sent; what the
response and the result can be (R86). An idle block may have a response or none. -/
structure State.Inv (s : State) : Prop where
  defbFrac : 0 ≤ s.defb ∧ s.defb ≤ 1
  callWaits : s.hostTx = true → s.busy = true
  noEarlyResponse : s.busy = true → s.rsp = none
  performedAttempted : s.trace.length ≤ s.nops
  midFrame : s.midFrame
  rspLegal : s.rspLegal
  retLegal : ∀ c, s.ret = some (.raised c) → c = .outOfRange ∨ c = .lengthMismatch ∨ c = .ioFailure

end Sys2Proof.Machine
end

