-- ==== Sys2Proof/Certificates/Slice0/Obligations.lean ====
section
/-! DEFINITION. The statements, one per rule or group of rules of spec/. Channels in bounds are written as bytes and
indices in bounds as `Fin 8`: every operand in bounds is one of those, and the other operands have their own clause.
`(D<n>)` after a rule names the decision of spec/92_eei_decisions.md that the rule marks as the spec's own reading of its
source; the words, fields and codes of the command port are all decisions D3 to D5. The fields `io`, `requests`, `rst`,
`rsp`, `ret` and `hostTx` are the model's reading of what stands beside the record of R40 (log entries 2 to 6). -/

open Sys2Proof Sys2Proof.Machine

/-! ## The pixel register commands -/

/-- R100: `WRPIX` writes all of one register and nothing else, with its encoding and corner cases. -/
def Obligations.WrpixWritesOneWholePixel : Prop :=
  ∀ (idx : Fin 8) (r g b : Byte) (lvl : Level) (s : State), ∃ t,
    exec (.wrpix idx r g b lvl) s = .next t ∧
    t.pix[idx] = ⟨r, g, b, lvl⟩ ∧ (∀ j : Fin 8, j ≠ idx → t.pix[j] = s.pix[j]) ∧
    t.rsp = some 0x00000000#32 ∧ OnlyPixAndRsp s t ∧ t.busy = s.busy ∧
    encode (.wrpix idx r g b lvl) = some (.command (0x01#8 ++ BitVec.ofNat 3 idx.val ++ lvl ++ b ++ g ++ r)) ∧
    exec (.wrpix idx 0 0 0 0) s = exec (.clrpix idx) s ∧
    (s.pix[idx] = ⟨r, g, b, lvl⟩ → t.pix = s.pix) ∧
    (∀ (r' g' b' : Byte) (lvl' : Level),
      execAll [.wrpix idx r' g' b' lvl', .wrpix idx r g b lvl] s = exec (.wrpix idx r g b lvl) s)

/-- R101: `CLRPIX` clears one register and nothing else; the next frame still has the cleared pixel's packet, which is
`0xE0 0x00 0x00 0x00`. -/
def Obligations.ClrpixClearsOnePixel : Prop :=
  ∀ (idx : Fin 8) (s : State), ∃ t,
    exec (.clrpix idx) s = .next t ∧
    t.pix[idx] = ⟨0, 0, 0, 0⟩ ∧ (∀ j : Fin 8, j ≠ idx → t.pix[j] = s.pix[j]) ∧
    t.rsp = some 0x00000000#32 ∧ OnlyPixAndRsp s t ∧ t.busy = s.busy ∧
    ((frameOps t.pix).drop (96 + 96 * idx.val)).take 96 = [0xE0#8, 0x00#8, 0x00#8, 0x00#8].flatMap byteOps ∧
    (s.pix[idx] = ⟨0, 0, 0, 0⟩ → t.pix = s.pix) ∧
    encode (.clrpix idx) = some (.command (0x02#8 ++ BitVec.ofNat 3 idx.val ++ 0#29)) ∧
    (∀ z : BitVec 29, z ≠ 0 → ∃ e, decodeCommand (0x02#8 ++ BitVec.ofNat 3 idx.val ++ z) = .error e)

/-- R102: `CLRALL` clears every register and nothing else; any pixel then reads as zero. -/
def Obligations.ClrallClearsEveryPixel : Prop :=
  ∀ s : State, ∃ t,
    exec .clrall s = .next t ∧ (∀ i : Fin 8, t.pix[i] = ⟨0, 0, 0, 0⟩) ∧
    t.rsp = some 0x00000000#32 ∧ OnlyPixAndRsp s t ∧
    (∀ i : Fin 8, ∃ u, exec (.rdpix i) t = .next u ∧ u.rsp = some 0x00000000#32) ∧
    encode .clrall = some (.command 0x0300000000#40) ∧
    (∀ z : BitVec 32, z ≠ 0 → ∃ e, decodeCommand (0x03#8 ++ z) = .error e)

/-- R103: `FILL` writes the same value to every register and nothing else. -/
def Obligations.FillWritesEveryPixel : Prop :=
  ∀ (r g b : Byte) (lvl : Level) (s : State), ∃ t,
    exec (.fill r g b lvl) s = .next t ∧ (∀ i : Fin 8, t.pix[i] = ⟨r, g, b, lvl⟩) ∧
    t.rsp = some 0x00000000#32 ∧ OnlyPixAndRsp s t ∧
    encode (.fill r g b lvl) = some (.command (0x04#8 ++ 0b000#3 ++ lvl ++ b ++ g ++ r)) ∧
    (∀ z : BitVec 3, z ≠ 0 → ∃ e, decodeCommand (0x04#8 ++ z ++ lvl ++ b ++ g ++ r) = .error e) ∧
    exec (.fill 0 0 0 0) s = exec .clrall s

/-- R104 (D16): `RDPIX` responds `OK` with the packed pixel and changes nothing; a register not written since reset reads as
zero. -/
def Obligations.RdpixRespondsThePackedPixel : Prop :=
  ∀ (idx : Fin 8) (s : State),
    exec (.rdpix idx) s =
      .next { s with rsp := some (0b000#3 ++ (s.pix[idx].lvl ++ s.pix[idx].b ++ s.pix[idx].g ++ s.pix[idx].r)) } ∧
    execAll [.rdpix idx, .rdpix idx] s = exec (.rdpix idx) s ∧
    exec (.rdpix idx) State.reset = .next { State.reset with rsp := some 0x00000000#32 } ∧
    encode (.rdpix idx) = some (.command (0x05#8 ++ BitVec.ofNat 3 idx.val ++ 0#29)) ∧
    (∀ z : BitVec 29, z ≠ 0 → ∃ e, decodeCommand (0x05#8 ++ BitVec.ofNat 3 idx.val ++ z) = .error e)

/-- R106: the laws of the pixel commands, (a) to (f), "in any order" being every permutation. -/
def Obligations.PixelCommandLaws : Prop :=
  (∀ (i : Fin 8) (r g b : Byte) (l : Level) (s : State), ∃ t,
    execAll [.wrpix i r g b l, .rdpix i] s = .next t ∧ t.rsp = some (0b000#3 ++ (l ++ b ++ g ++ r))) ∧
  (∀ (i j : Fin 8) (r g b : Byte) (l : Level) (s : State), j ≠ i → ∃ t u,
    execAll [.wrpix i r g b l, .rdpix j] s = .next t ∧ exec (.rdpix j) s = .next u ∧ t.rsp = u.rsp) ∧
  (∀ (i : Fin 8) (s : State), exec (.clrpix i) s = exec (.wrpix i 0 0 0 0) s) ∧
  (∀ (s : State) (order : List (Fin 8)), order.Perm (List.finRange 8) →
    exec .clrall s = exec (.fill 0 0 0 0) s ∧ execAll (order.map .clrpix) s = exec .clrall s) ∧
  (∀ (r g b : Byte) (l : Level) (s : State) (order : List (Fin 8)), order.Perm (List.finRange 8) →
    execAll (order.map fun i => .wrpix i r g b l) s = exec (.fill r g b l) s) ∧
  (∀ (cmds : List Instr) (s : State), (∀ c ∈ cmds, c.pixelCommand = true) → ∃ t,
    execAll cmds s = .next t ∧ t.clk = s.clk ∧ t.dat = s.dat ∧ t.seq = s.seq ∧ t.trace = s.trace ∧ t.defb = s.defb)

/-! ## Brightness -/

/-- R170 (D8): `quantise` is the exact floor, and its laws and examples; the level field holds it without loss (R87). -/
def Obligations.QuantiseIsTheExactFloor : Prop :=
  (∀ q : Rat, 0 ≤ q → q ≤ 1 →
    ((quantise q : Int) : Rat) ≤ q * 31 ∧ q * 31 < ((quantise q : Int) : Rat) + 1 ∧
    0 ≤ quantise q ∧ quantise q ≤ 31 ∧ (quantise q = 31 ↔ q = 1) ∧ ((narrowBright q).toNat : Int) = quantise q ∧
    (∀ k : Int, k < 31 → (quantise q = k ↔ (k : Rat) / 31 ≤ q ∧ q < ((k : Rat) + 1) / 31))) ∧
  (∀ p q : Rat, 0 ≤ p → p ≤ q → q ≤ 1 → quantise p ≤ quantise q) ∧
  (∀ k : Int, 0 ≤ k → k ≤ 31 → quantise ((k : Rat) / 31) = k) ∧
  quantise 0 = 0 ∧ quantise 1 = 31 ∧ quantise (1 / 2) = 15 ∧ quantise (1 / 4) = 7 ∧ quantise (999 / 1000) = 30 ∧
  quantise (3 / 100) = 0 ∧ quantise (1 / 31) = 1

/-! ## The host layer -/

/-- R172: `setPixel` with a brightness, in both shapes (R174, D21). In bounds it is one `WRPIX`, which overwrites exactly one
pixel with the channels and `floor(31q)`, and reads back as these; with any operand out of bounds it raises `OutOfRange`
and changes nothing else. -/
def Obligations.SetPixelWithBrightness : Prop :=
  (∀ (i : Fin 8) (r g b : Byte) (q : Rat) (s : State), 0 ≤ q → q ≤ 1 → ∃ t,
    exec (.setPixelRgbBrightness i.val r.toNat g.toNat b.toNat q) s = .next t ∧
    exec (.setPixelColourBrightness i.val ⟨r.toNat, g.toNat, b.toNat⟩ q) s = .next t ∧
    t.pix[i].r = r ∧ t.pix[i].g = g ∧ t.pix[i].b = b ∧ (t.pix[i].lvl.toNat : Int) = ⌊q * 31⌋ ∧
    (∀ j : Fin 8, j ≠ i → t.pix[j] = s.pix[j]) ∧
    t.rsp = some 0x00000000#32 ∧ t.ret = some .ok ∧ OnlyPixRspRet s t ∧
    exec (.wrpix i r g b t.pix[i].lvl) s = .next { t with ret := s.ret } ∧
    ∃ u, exec (.getPixel i.val) t = .next u ∧ u.ret = some (.pixel r g b t.pix[i].lvl ((⌊q * 31⌋ : Rat) / 31))) ∧
  (∀ (index : Int) (c : Colour) (q : Rat) (s : State),
    (index < 0 ∨ 7 < index ∨ c.red < 0 ∨ 255 < c.red ∨ c.green < 0 ∨ 255 < c.green ∨ c.blue < 0 ∨ 255 < c.blue ∨
      q < 0 ∨ 1 < q) →
    exec (.setPixelRgbBrightness index c.red c.green c.blue q) s = .next { s with ret := some (.raised .outOfRange) } ∧
    exec (.setPixelColourBrightness index c q) s = .next { s with ret := some (.raised .outOfRange) })

/-- R173: `setPixel` without a brightness, in both shapes (R174, D21), is one `WRPIX` with the default brightness at the moment
it runs; a later change of it does not alter the pixel. -/
def Obligations.SetPixelWithDefaultBrightness : Prop :=
  (∀ (i : Fin 8) (r g b : Byte) (s : State), 0 ≤ s.defb → s.defb ≤ 1 → ∃ t,
    exec (.setPixelRgb i.val r.toNat g.toNat b.toNat) s = .next t ∧
    exec (.setPixelColour i.val ⟨r.toNat, g.toNat, b.toNat⟩) s = .next t ∧
    t.pix[i].r = r ∧ t.pix[i].g = g ∧ t.pix[i].b = b ∧ (t.pix[i].lvl.toNat : Int) = ⌊s.defb * 31⌋ ∧
    (∀ j : Fin 8, j ≠ i → t.pix[j] = s.pix[j]) ∧
    t.rsp = some 0x00000000#32 ∧ t.ret = some .ok ∧ OnlyPixRspRet s t ∧
    exec (.wrpix i r g b t.pix[i].lvl) s = .next { t with ret := s.ret } ∧
    (∀ q : Rat, ∃ u, exec (.setDefaultBrightness q) t = .next u ∧ u.pix = t.pix)) ∧
  (∀ (index : Int) (c : Colour) (s : State),
    (index < 0 ∨ 7 < index ∨ c.red < 0 ∨ 255 < c.red ∨ c.green < 0 ∨ 255 < c.green ∨ c.blue < 0 ∨ 255 < c.blue) →
    exec (.setPixelRgb index c.red c.green c.blue) s = .next { s with ret := some (.raised .outOfRange) } ∧
    exec (.setPixelColour index c) s = .next { s with ret := some (.raised .outOfRange) })

/-- R175, R176, R187 (D15): `clearPixel` is one `CLRPIX`, `clearAll` one `CLRALL`. `reset()` is `clearAll()` and `DEFB <- 1`,
with no line operation; it is not hardware reset (R39). -/
def Obligations.ClearingOperations : Prop :=
  (∀ (i : Fin 8) (s : State), ∃ t,
    exec (.clearPixel i.val) s = .next t ∧ t.pix[i] = ⟨0, 0, 0, 0⟩ ∧ (∀ j : Fin 8, j ≠ i → t.pix[j] = s.pix[j]) ∧
    t.rsp = some 0x00000000#32 ∧ t.ret = some .ok ∧ OnlyPixRspRet s t ∧
    exec (.clrpix i) s = .next { t with ret := s.ret }) ∧
  (∀ (index : Int) (s : State), (index < 0 ∨ 7 < index) →
    exec (.clearPixel index) s = .next { s with ret := some (.raised .outOfRange) }) ∧
  (∀ s : State, ∃ t,
    exec .clearAll s = .next t ∧ (∀ i : Fin 8, t.pix[i] = ⟨0, 0, 0, 0⟩) ∧
    t.rsp = some 0x00000000#32 ∧ t.ret = some .ok ∧ OnlyPixRspRet s t ∧
    exec .clrall s = .next { t with ret := s.ret } ∧
    exec .reset s = .next { t with defb := 1 })

/-- R186 (D16): `getPixel` gives back what is stored, as channels, level and `lvl/31`; a bad index is `OutOfRange`. -/
def Obligations.GetPixelGivesBackTheStoredPixel : Prop :=
  (∀ (i : Fin 8) (s : State), ∃ w,
    exec (.rdpix i) s = .next { s with rsp := some w } ∧
    exec (.getPixel i.val) s =
      .next { s with
        rsp := some w
        ret := some (.pixel s.pix[i].r s.pix[i].g s.pix[i].b s.pix[i].lvl ((s.pix[i].lvl.toNat : Rat) / 31)) }) ∧
  (∀ (index : Int) (s : State), (index < 0 ∨ 7 < index) →
    exec (.getPixel index) s = .next { s with ret := some (.raised .outOfRange) })

/-- R177: `setAll` is one `FILL`: it gives every pixel the same colour and `floor(31q)`; any operand out of bounds is `OutOfRange`. -/
def Obligations.SetAllWritesEveryPixel : Prop :=
  (∀ (r g b : Byte) (q : Rat) (s : State), 0 ≤ q → q ≤ 1 → ∃ t,
    exec (.setAll r.toNat g.toNat b.toNat q) s = .next t ∧
    (∀ i : Fin 8, t.pix[i].r = r ∧ t.pix[i].g = g ∧ t.pix[i].b = b ∧ (t.pix[i].lvl.toNat : Int) = ⌊q * 31⌋) ∧
    t.rsp = some 0x00000000#32 ∧ t.ret = some .ok ∧ OnlyPixRspRet s t ∧
    exec (.fill r g b t.pix[0].lvl) s = .next { t with ret := s.ret }) ∧
  (∀ (c : Colour) (q : Rat) (s : State),
    (c.red < 0 ∨ 255 < c.red ∨ c.green < 0 ∨ 255 < c.green ∨ c.blue < 0 ∨ 255 < c.blue ∨ q < 0 ∨ 1 < q) →
    exec (.setAll c.red c.green c.blue q) s = .next { s with ret := some (.raised .outOfRange) })

/-- R178: the laws of `lerp`. -/
def Obligations.LerpLaws : Prop :=
  (∀ (s e : Rat) (i : Nat), lerp s e i = s + (e - s) * i / 7 ∧ lerp s e i = (s * (7 - i) + e * i) / 7) ∧
  (∀ s e : Rat, lerp s e 0 = s ∧ lerp s e 7 = e) ∧
  (∀ (s e : Rat) (i j : Nat), i ≤ j → j ≤ 7 →
    (s ≤ e → lerp s e i ≤ lerp s e j) ∧ (e ≤ s → lerp s e j ≤ lerp s e i)) ∧
  (∀ (s e : Rat) (i : Nat), i ≤ 7 → min s e ≤ lerp s e i ∧ lerp s e i ≤ max s e)

/-- R179 (D19), R180 (D17), R181 (D18): the gradient. Channel i is `(s(7-i) + e·i) div 7`, level i is `floor(31(q0(7-i) + q1·i)/7)`; any
operand out of bounds is `OutOfRange` with no pixel changed. -/
def Obligations.GradientWritesTheInterpolatedPixels : Prop :=
  (∀ (r0 g0 b0 r1 g1 b1 : Byte) (q0 q1 : Rat) (s : State), 0 ≤ q0 → q0 ≤ 1 → 0 ≤ q1 → q1 ≤ 1 → ∃ t,
    exec (.setGradient ⟨r0.toNat, g0.toNat, b0.toNat⟩ ⟨r1.toNat, g1.toNat, b1.toNat⟩ q0 q1) s = .next t ∧
    (∀ i : Fin 8,
      t.pix[i].r.toNat = (r0.toNat * (7 - i.val) + r1.toNat * i.val) / 7 ∧
      t.pix[i].g.toNat = (g0.toNat * (7 - i.val) + g1.toNat * i.val) / 7 ∧
      t.pix[i].b.toNat = (b0.toNat * (7 - i.val) + b1.toNat * i.val) / 7 ∧
      (t.pix[i].lvl.toNat : Int) = ⌊31 * (q0 * (7 - (i.val : Rat)) + q1 * (i.val : Rat)) / 7⌋) ∧
    t.rsp = some 0x00000000#32 ∧ t.ret = some .ok ∧ OnlyPixRspRet s t) ∧
  (∀ (c0 c1 : Colour) (q0 q1 : Rat) (s : State),
    (¬ (colourOk c0 = true ∧ colourOk c1 = true ∧ 0 ≤ q0 ∧ q0 ≤ 1 ∧ 0 ≤ q1 ∧ q1 ≤ 1)) →
    exec (.setGradient c0 c1 q0 q1) s = .next { s with ret := some (.raised .outOfRange) })

/-- R182 (D22): the three collapsing forms of `setGradient`, and the effect of the flat one, which is that of `setAll`. -/
def Obligations.GradientCollapsingForms : Prop :=
  ∀ (c c0 c1 : Colour) (q q0 q1 : Rat) (s : State),
    exec (.setGradientOneBrightness c0 c1 q) s = exec (.setGradient c0 c1 q q) s ∧
    exec (.setGradientOneColour c q0 q1) s = exec (.setGradient c c q0 q1) s ∧
    exec (.setGradientFlat c q) s = exec (.setGradient c c q q) s ∧
    exec (.setGradientFlat c q) s = exec (.setAll c.red c.green c.blue q) s

/-- R183 (D23): `setAllPixels` in both forms. Element i goes to pixel i; a wrong length is `LengthMismatch`, whatever the
elements; with right lengths any element out of bounds is `OutOfRange`. -/
def Obligations.SetAllPixelsWritesElementByElement : Prop :=
  (∀ (cs : List Colour) (qs : List Rat) (s : State), cs.length = 8 → qs.length = 8 →
    (∀ c ∈ cs, colourOk c = true) → (∀ q ∈ qs, 0 ≤ q ∧ q ≤ 1) → ∃ t,
    exec (.setAllPixelsList cs qs) s = .next t ∧
    (∀ (i : Fin 8) (c : Colour) (q : Rat), cs[i.val]? = some c → qs[i.val]? = some q →
      (t.pix[i].r.toNat : Int) = c.red ∧ (t.pix[i].g.toNat : Int) = c.green ∧ (t.pix[i].b.toNat : Int) = c.blue ∧
      (t.pix[i].lvl.toNat : Int) = ⌊q * 31⌋) ∧
    t.rsp = some 0x00000000#32 ∧ t.ret = some .ok ∧ OnlyPixRspRet s t) ∧
  (∀ (cs : List Colour) (q : Rat) (s : State), cs.length = 8 → (∀ c ∈ cs, colourOk c = true) → 0 ≤ q → q ≤ 1 →
    exec (.setAllPixelsScalar cs q) s = exec (.setAllPixelsList cs (List.replicate 8 q)) s) ∧
  (∀ (cs : List Colour) (qs : List Rat) (s : State), (cs.length ≠ 8 ∨ qs.length ≠ 8) →
    exec (.setAllPixelsList cs qs) s = .next { s with ret := some (.raised .lengthMismatch) }) ∧
  (∀ (cs : List Colour) (q : Rat) (s : State), cs.length ≠ 8 →
    exec (.setAllPixelsScalar cs q) s = .next { s with ret := some (.raised .lengthMismatch) }) ∧
  (∀ (cs : List Colour) (qs : List Rat) (s : State), cs.length = 8 → qs.length = 8 →
    ((∃ c ∈ cs, colourOk c = false) ∨ ∃ q ∈ qs, q < 0 ∨ 1 < q) →
    exec (.setAllPixelsList cs qs) s = .next { s with ret := some (.raised .outOfRange) }) ∧
  (∀ (cs : List Colour) (q : Rat) (s : State), cs.length = 8 →
    ((∃ c ∈ cs, colourOk c = false) ∨ q < 0 ∨ 1 < q) →
    exec (.setAllPixelsScalar cs q) s = .next { s with ret := some (.raised .outOfRange) })

/-- R184, R185: the default brightness is stored and given back exactly; a value out of bounds is `OutOfRange` and `DEFB`
keeps its value. -/
def Obligations.DefaultBrightnessIsStoredExactly : Prop :=
  (∀ (q : Rat) (s : State), 0 ≤ q → q ≤ 1 →
    exec (.setDefaultBrightness q) s = .next { s with defb := q, ret := some .ok } ∧
    execAll [.setDefaultBrightness q, .getDefaultBrightness] s =
      .next { s with defb := q, ret := some (.brightness q) }) ∧
  (∀ (q : Rat) (s : State), (q < 0 ∨ 1 < q) →
    exec (.setDefaultBrightness q) s = .next { s with ret := some (.raised .outOfRange) }) ∧
  (∀ s : State, exec .getDefaultBrightness s = .next { s with ret := some (.brightness s.defb) })

/-- R211, R212, R215 (a) (D20): an ill-formed call raises `LengthMismatch` where a length is wrong and `OutOfRange` else, and
its result is the whole of its effect; a well-formed instruction answers a next state whose result is neither. -/
def Obligations.ValidationErrorsChangeNothing : Prop :=
  (∀ (i : Instr) (s : State), i.wf = false →
    exec i s =
      .next { s with ret := some (.raised (if i.lengthsOk = true then .outOfRange else .lengthMismatch)) }) ∧
  (∀ (i : Instr) (s : State), i.wf = true → i.layer = .host → ∃ t,
    exec i s = .next t ∧ t.ret ≠ some (.raised .outOfRange) ∧ t.ret ≠ some (.raised .lengthMismatch))

/-- R91, R219: a well-formed host-layer operation has the effect of its expansion into commands, each of which has a
legal command word; only the result given to the caller, and the default brightness where the operation writes it, are
the host layer's own. -/
def Obligations.HostOperationsAreTheirExpansions : Prop :=
  ∀ (i : Instr) (s : State), i.layer = .host → i.wf = true → ∃ t u,
    exec i s = .next t ∧ execAll (lowering i s.defb) s = .next u ∧
    t.pix = u.pix ∧ SameWire u t ∧ t.rsp = u.rsp ∧ SameInputs u t ∧
    (∀ c ∈ lowering i s.defb, ∃ w, encode c = some (.command w) ∧ decodeCommand w = .ok c)

/-- R192: the document's testable properties, (a) to (g). -/
def Obligations.ConformanceProperties : Prop :=
  (∀ (i : Fin 8) (r g b : Byte) (q : Rat) (s : State), 0 ≤ q → q ≤ 1 → ∃ t lvl,
    execAll [.setPixelRgbBrightness i.val r.toNat g.toNat b.toNat q, .getPixel i.val] s = .next t ∧
    t.ret = some (.pixel r g b lvl ((⌊q * 31⌋ : Rat) / 31)) ∧ (lvl.toNat : Int) = ⌊q * 31⌋) ∧
  (∀ (i : Fin 8) (s : State), ∃ t,
    execAll [.clearAll, .getPixel i.val] s = .next t ∧ t.ret = some (.pixel 0 0 0 0 0)) ∧
  (∀ (r g b : Byte) (s : State), ∃ t,
    exec (.setGradient ⟨r.toNat, g.toNat, b.toNat⟩ ⟨r.toNat, g.toNat, b.toNat⟩ (1 / 2) (1 / 2)) s = .next t ∧
    ∀ i : Fin 8, t.pix[i] = ⟨r, g, b, 15⟩) ∧
  (∀ s : State, ∃ t,
    exec (.setGradient ⟨0, 0, 0⟩ ⟨255, 255, 255⟩ 0 1) s = .next t ∧
    t.pix[(0 : Fin 8)] = ⟨0, 0, 0, 0⟩ ∧ t.pix[(7 : Fin 8)] = ⟨255, 255, 255, 31⟩ ∧
    ∀ i j : Fin 8, i ≤ j →
      t.pix[i].r ≤ t.pix[j].r ∧ t.pix[i].g ≤ t.pix[j].g ∧ t.pix[i].b ≤ t.pix[j].b ∧ t.pix[i].lvl ≤ t.pix[j].lvl) ∧
  (∀ (cs : List Colour) (qs : List Rat) (q : Rat) (s : State), cs.length = 7 →
    exec (.setAllPixelsScalar cs q) s = .next { s with ret := some (.raised .lengthMismatch) } ∧
    exec (.setAllPixelsList cs qs) s = .next { s with ret := some (.raised .lengthMismatch) }) ∧
  (∀ (r g b : Int) (q : Rat) (s : State),
    exec (.setPixelRgbBrightness 8 r g b q) s = .next { s with ret := some (.raised .outOfRange) } ∧
    exec (.setPixelRgbBrightness (-1) r g b q) s = .next { s with ret := some (.raised .outOfRange) }) ∧
  (∀ s : State, s.pix[(3 : Fin 8)] = ⟨10, 20, 30, 7⟩ → s.allPerformed 937 → ∃ t sent,
    exec .transmit s = .next t ∧ t.trace = s.trace ++ sent ∧
    (sent.drop 384).take 96 = [0xE7, 0x1E, 0x14, 0x0A].flatMap byteOps ∧
    sent.drop 864 = ⟨.dat, false⟩ :: rep 36 [⟨.clk, true⟩, ⟨.clk, false⟩])

/-! ## The transmit command -/

/-- R131 (D13), R132 (D11): one line operation, answered by `io_ok` and `io_fail_level` at the count `nops` where no answer is given
by the model's input list (log entry 2). The result and the waiting of a `transmit()` (log entry 6), and what an operation
does with `SEQ` idle (log entry 8), are the model's choice. Performed, the line takes the level also where it has it already, and the operation
is recorded and advances `SEQ`; failed, the line keeps its level or takes the requested one as the selector says, nothing
is recorded, and the frame is over. The other line is never changed. -/
def Obligations.LineSetDrivesOneLine : Prop :=
  (∀ s : State, s.io = [] →
    s.answerAt 0 = if Config.ioOk s.nops = true then .performed else .failed (Config.ioFailLevel s.nops)) ∧
  (∀ (op : LineOp) (s : State), s.answerAt 0 = .performed → ∃ t,
    lineSet op s = ⟨t, true⟩ ∧
    t.clk = (if op.line = .clk then op.level else s.clk) ∧ t.dat = (if op.line = .dat then op.level else s.dat) ∧
    t.trace = s.trace ++ [op] ∧ t.nops = s.nops + 1 ∧ t.pix = s.pix ∧ t.defb = s.defb ∧
    (∀ n : Fin 937, s.seq = some n →
      (∀ h : n.val < 936, t.seq = some ⟨n.val + 1, by omega⟩ ∧ t.rsp = s.rsp ∧ SameCall s t) ∧
      (n.val = 936 → t.seq = none ∧ t.rsp = some 0x00000000#32 ∧ t.hostTx = false ∧
        t.ret = if s.hostTx = true then some .ok else s.ret)) ∧
    (s.seq = none → t.seq = none ∧ t.rsp = s.rsp ∧ SameCall s t)) ∧
  (∀ (op : LineOp) (took : Bit) (s : State), s.answerAt 0 = .failed took → ∃ t,
    lineSet op s = ⟨t, false⟩ ∧
    t.clk = (if op.line = .clk ∧ took = true then op.level else s.clk) ∧
    t.dat = (if op.line = .dat ∧ took = true then op.level else s.dat) ∧
    t.trace = s.trace ∧ t.nops = s.nops + 1 ∧ t.seq = none ∧ t.rsp = some 0x60000000#32 ∧ t.pix = s.pix ∧
    t.defb = s.defb ∧ t.hostTx = false ∧ t.ret = if s.hostTx = true then some (.raised .ioFailure) else s.ret)

/-- R133 to R137, R140, R142, R145: every emitter performs its list of line operations, up to the first that fails; `TX`
performs exactly `FrameOps(PIX)`. -/
def Obligations.EmittersPerformTheirOperations : Prop :=
  (∀ s : State, pulse s = emit [⟨.clk, true⟩, ⟨.clk, false⟩] s) ∧
  (∀ (v : Bit) (s : State), emitBit v s = emit [⟨.dat, v⟩, ⟨.clk, true⟩, ⟨.clk, false⟩] s) ∧
  (∀ (B : Byte) (s : State), emitByte B s = emit (byteOps B) s) ∧
  (∀ (W : Word32) (s : State), emitWord W s = emit (wordOps W) s) ∧
  (∀ s : State, preambleBody s = emit (rep 32 [⟨.dat, false⟩, ⟨.clk, true⟩, ⟨.clk, false⟩]) s ∧
    preambleBody s = emitWord 0x00000000#32 s) ∧
  (∀ (i : Fin 8) (s : State), packetBody i s = emit (wordOps (packetWord s.pix[i])) s) ∧
  (∀ s : State, latchBody s = emit (⟨.dat, false⟩ :: rep 36 [⟨.clk, true⟩, ⟨.clk, false⟩]) s) ∧
  (∀ s : State, txBody s = emit (frameOps s.pix) s)

/-- R143, R145, R188: a `TX` in which no line operation fails, and a `transmit()`, whole: the frame is sent, both lines
end low, and the block is idle with response `OK`. -/
def Obligations.TransmitSendsTheWholeFrame : Prop :=
  ∀ s : State, s.allPerformed 937 →
    exec .tx s =
      .next { s with
        clk := false, dat := false, seq := none, trace := s.trace ++ frameOps s.pix, nops := s.nops + 937
        io := s.io.drop 937, rsp := some 0x00000000#32, hostTx := false } ∧
    exec .transmit s =
      .next { s with
        clk := false, dat := false, seq := none, trace := s.trace ++ frameOps s.pix, nops := s.nops + 937
        io := s.io.drop 937, rsp := some 0x00000000#32, hostTx := false, ret := some .ok } ∧
    (frameOps s.pix).length = 937

/-- R149 (D13, D14), R150: a `TX` whose line operation f is the first to fail: exactly the operations before it are sent and stay
sent, its line holds either level as the selector says, and the block is idle with response `IoFailure`. -/
def Obligations.TransmitStopsAtTheFirstFailure : Prop :=
  ∀ (s : State) (f : Nat) (took : Bit) (op : LineOp), f < 937 → s.firstFailure f took →
    (frameOps s.pix)[f]? = some op →
    let before := levelsAfter s.clk s.dat ((frameOps s.pix).take f)
    let after := if took = true then levelsAfter before.1 before.2 [op] else before
    exec .tx s =
      .next { s with
        clk := after.1, dat := after.2, seq := none, trace := s.trace ++ (frameOps s.pix).take f
        nops := s.nops + f + 1, io := s.io.drop (f + 1), rsp := some 0x60000000#32, hostTx := false } ∧
    exec .transmit s =
      .next { s with
        clk := after.1, dat := after.2, seq := none, trace := s.trace ++ (frameOps s.pix).take f
        nops := s.nops + f + 1, io := s.io.drop (f + 1), rsp := some 0x60000000#32, hostTx := false
        ret := some (.raised .ioFailure) }

/-- R71, R72, R73 in their place of a frame: the wire items, each performed whole. -/
def Obligations.WireItemsAreSentInPlace : Prop :=
  (∀ s : State, s.seq = some 0 → s.allPerformed 96 →
    exec .preamble s =
      .next { s with
        clk := false, dat := false, seq := some 96
        trace := s.trace ++ rep 32 [⟨.dat, false⟩, ⟨.clk, true⟩, ⟨.clk, false⟩]
        nops := s.nops + 96, io := s.io.drop 96 }) ∧
  (∀ (r g b : Byte) (lvl : Level) (i : Fin 8) (s : State),
    s.seq = some ⟨96 + 96 * i.val, by omega⟩ → s.allPerformed 96 →
    exec (.pixelPacket r g b lvl) s =
      .next { s with
        clk := false, dat := r.getLsbD 0, seq := some ⟨192 + 96 * i.val, by omega⟩
        trace := s.trace ++ ([0b111#3 ++ lvl, b, g, r].flatMap byteOps)
        nops := s.nops + 96, io := s.io.drop 96 }) ∧
  (∀ s : State, s.seq = some 864 → s.allPerformed 73 →
    exec .latch s =
      .next { s with
        clk := false, dat := false, seq := none
        trace := s.trace ++ ⟨.dat, false⟩ :: rep 36 [⟨.clk, true⟩, ⟨.clk, false⟩]
        nops := s.nops + 73, io := s.io.drop 73, rsp := some 0x00000000#32, hostTx := false
        ret := if s.hostTx = true then some .ok else s.ret })

/-- R146: the closed form of line operation n, and the length of the frame. -/
def Obligations.FrameOpsClosedForm : Prop :=
  ∀ pix : Vector Pixel 8, (frameOps pix).length = 937 ∧
    ∀ n < 937, (frameOps pix)[n]? = some
      (if n ≤ 863 then
        if n % 3 = 0 then
          ⟨.dat, (if n / 3 < 32 then 0#32 else packetWord (pix.get (Fin.ofNat 8 (n / 3 / 32 - 1)))).getLsbD
            (31 - n / 3 % 32)⟩
        else if n % 3 = 1 then ⟨.clk, true⟩ else ⟨.clk, false⟩
      else if n = 864 then ⟨.dat, false⟩
      else if n % 2 = 1 then ⟨.clk, true⟩ else ⟨.clk, false⟩) ∧
    (frameOps pix)[n]? = some (frameOp pix n)

/-- R147: the counts of a frame. -/
def Obligations.FrameCounts : Prop :=
  ∀ pix : Vector Pixel 8,
    (frameOps pix).length = 937 ∧
    (frameOps pix).countP (fun op => op.line = .dat) = 289 ∧
    (frameOps pix).count ⟨.clk, true⟩ = 324 ∧ (frameOps pix).count ⟨.clk, false⟩ = 324 ∧
    (frameOps pix).count ⟨.dat, true⟩ = 24 + (pix.toList.map popcount).sum

/-- R75, R76, R139, R141: the packet word and the frame as bytes. -/
def Obligations.PacketWordAndFrameBytes : Prop :=
  (∀ p : Pixel,
    packetWord p = 0b111#3 ++ p.lvl ++ p.b ++ p.g ++ p.r ∧
    packetWord p =
      0xE0000000#32 ||| (p.lvl.setWidth 32 <<< 24) ||| (p.b.setWidth 32 <<< 16) ||| (p.g.setWidth 32 <<< 8) |||
        p.r.setWidth 32 ∧
    ((packetWord p).extractLsb' 24 8).toNat = 224 + p.lvl.toNat ∧
    (packetWord p).extractLsb' 24 8 = 0xE0#8 ||| p.lvl.setWidth 8 ∧
    ((packetWord p).extractLsb' 24 8).extractLsb' 0 5 = p.lvl) ∧
  packetWord ⟨10, 20, 30, 7⟩ = 0xE71E140A#32 ∧ packetWord ⟨0, 0, 0, 0⟩ = 0xE0000000#32 ∧
  packetWord ⟨255, 255, 255, 31⟩ = 0xFFFFFFFF#32 ∧
  (∀ pix : Vector Pixel 8, (frameBytes pix).length = 36 ∧
    frameOps pix = (frameBytes pix).flatMap byteOps ++ latchOps ∧
    ∀ i : Fin 8, ((frameBytes pix).drop (4 + 4 * i.val)).take 4 =
      [0xE0#8 ||| pix[i].lvl.setWidth 8, pix[i].b, pix[i].g, pix[i].r])

/-- R152 (D28): what a rising-edge receiver samples of a frame from either level of `CLK`; from `CLK` = 0 `DAT` is stable
across every rising edge. -/
def Obligations.ReceiverSamplesTheFrameBits : Prop :=
  ∀ (pix : Vector Pixel 8) (dat : Bit),
    frameBits pix =
      List.replicate 32 false ++ allIdx.flatMap (fun i => wordBits (packetWord pix[i])) ++ List.replicate 36 false ∧
    (frameBits pix).length = 324 ∧ rx false dat (frameOps pix) = frameBits pix ∧
    rx true dat (frameOps pix) = (frameBits pix).tail ∧ datStable false (frameOps pix) = true

/-- R56: the sampled bit j of a complete frame. -/
def Obligations.SampledBitByNumber : Prop :=
  ∀ (pix : Vector Pixel 8) (dat : Bit) (j : Nat),
    (j < 32 → (rx false dat (frameOps pix))[j]? = some false) ∧
    (∀ i : Fin 8, j / 32 = i.val + 1 →
      (rx false dat (frameOps pix))[j]? = some ((packetWord pix[i]).getLsbD (31 - j % 32))) ∧
    (288 ≤ j → j < 324 → (rx false dat (frameOps pix))[j]? = some false) ∧
    (324 ≤ j → (rx false dat (frameOps pix))[j]? = none)

/-- R134, R149: from `CLK` = 0 every `DAT` operation of a frame is performed while `CLK` is 0, also in a frame that a
failed operation cuts short. -/
def Obligations.DataIsStableAcrossRisingEdges : Prop :=
  ∀ (pix : Vector Pixel 8) (n : Nat), datStable false ((frameOps pix).take n) = true

/-- R143, R152, R248: after a `TX` that answered `OK`, whatever the lines were before it, the next frame is sampled
whole. -/
def Obligations.SecondFrameIsSampledWhole : Prop :=
  ∀ s : State, s.allPerformed 1874 → ∃ t u sent,
    exec .tx s = .next t ∧ exec .tx t = .next u ∧ u.trace = t.trace ++ sent ∧ sent = frameOps s.pix ∧
    rx t.clk t.dat sent = frameBits s.pix

/-! ## The step -/

/-- R148, R31 (D24), R64 (D25): while `SEQ` = n and `rst` is low, a step is exactly line operation n, by `LineSet`; the pixels, the
default brightness and the host's requests stay. -/
def Obligations.BusyStepIsOneLineOperation : Prop :=
  ∀ (s : State) (n : Fin 937), s.seq = some n → s.rstLevel = false → ∃ t op,
    step s = .next t ∧ (frameOps s.pix)[n.val]? = some op ∧
    t = (lineSet op { s with rst := s.rst.tail }).state ∧
    t.pix = s.pix ∧ t.defb = s.defb ∧ t.requests = s.requests ∧ t.nops = s.nops + 1 ∧
    (s.answerAt 0 = .performed →
      t.trace = s.trace ++ [op] ∧ (∀ h : n.val < 936, t.seq = some ⟨n.val + 1, by omega⟩) ∧
      (n.val = 936 → t.seq = none ∧ t.rsp = some 0x00000000#32)) ∧
    (s.answerAt 0 ≠ .performed → t.trace = s.trace ∧ t.seq = none ∧ t.rsp = some 0x60000000#32)

/-- R32: the line operation of a busy step is one of the wire item the sequencer is in, counted from the item's start. -/
def Obligations.BusyStepBelongsToItsWireItem : Prop :=
  ∀ (pix : Vector Pixel 8) (n : Nat), n < 937 →
    (itemOps (itemAt pix n))[n - itemStart n]? = some (frameOp pix n) ∧
    (n < 96 → itemAt pix n = .preamble ∧ itemStart n = 0) ∧
    (∀ i : Fin 8, 96 + 96 * i.val ≤ n → n < 192 + 96 * i.val →
      itemAt pix n = .pixelPacket pix[i].r pix[i].g pix[i].b pix[i].lvl ∧ itemStart n = 96 + 96 * i.val) ∧
    (864 ≤ n → itemAt pix n = .latch ∧ itemStart n = 864)

/-- After R79 (D6), R83 (D4), R84: with the block idle and `rst` low a step takes the host's next request. A command word
that decodes, and a call, runs as `exec` of its instruction, all of it in this step; `TX` and `transmit()` are accepted,
and their line operations are the next steps'; a word that is no command is answered `IllegalCommand` with no other change;
with no request the block waits. The model's choices in it: the lists of requests and of levels of `rst` (log entries 3 and
4), acceptance of a `TX` empties the response port (log entry 5), the result and the waiting of a call (log entry 6), a call
of several commands is one step (log entry 14), what a step with no request does (log entry 17). -/
def Obligations.StepRunsTheRequest : Prop :=
  (∀ (s : State) (q : Request) (rest : List Request), s.seq = none → s.rstLevel = false → s.requests = q :: rest →
    (∀ i : Instr, (∃ w, q = .word w ∧ decode (.command w) = .ok i) ∨ (∃ h, q = .call ⟨i, h⟩) →
      (i ≠ .tx → i ≠ .transmit → step s = exec i { s with requests := rest, rst := s.rst.tail }) ∧
      (i = .tx → step s = .next
        { s with requests := rest, rst := s.rst.tail, seq := some 0, rsp := none, hostTx := false }) ∧
      (i = .transmit → step s = .next
        { s with requests := rest, rst := s.rst.tail, seq := some 0, rsp := none, hostTx := true, ret := none })) ∧
    (∀ (w : CmdWord) (e : DecodeError), q = .word w → decode (.command w) = .error e →
      step s = .next { s with requests := rest, rst := s.rst.tail, rsp := some 0x80000000#32 })) ∧
  (∀ s : State, s.seq = none → s.rstLevel = false → s.requests = [] → step s = .next { s with rst := s.rst.tail })

/-- R150, R148: the fine steps agree with the coarse one. From an idle block with a `TX` word or a `transmit()` call at
the head of the requests, and `rst` low, the machine comes in at most 938 steps to the very state `exec` gives, busy at
every step before it. -/
def Obligations.FineStepsReachTheCoarseTransmit : Prop :=
  ∀ (s : State) (rest : List Request) (i : Instr), s.seq = none → s.rstQuiet 938 →
    ((i = .tx ∧ s.requests = .word 0x0600000000#40 :: rest) ∨
      (i = .transmit ∧ s.requests = .call ⟨.transmit, rfl⟩ :: rest)) →
    ∃ k t, 2 ≤ k ∧ k ≤ 938 ∧ exec i { s with requests := rest } = .next t ∧ t.busy = false ∧
      run k s = .next { t with rst := s.rst.drop k } ∧
      ∀ j, 1 ≤ j → j < k → ∃ u, run j s = .next u ∧ u.busy = true

/-- R148, R150 for the items: from the start of a wire item in a frame, with `rst` low, the fine steps come in at most 96
steps to the very state `exec` of the item gives. -/
def Obligations.FineStepsReachTheWireItem : Prop :=
  ∀ (s : State) (n : Fin 937), s.seq = some n → itemStart n.val = n.val → s.rstQuiet 96 →
    ∃ k t, 1 ≤ k ∧ k ≤ 96 ∧ exec (itemAt s.pix n.val) s = .next t ∧ run k s = .next { t with rst := s.rst.drop k }

/-- R148, R230: a running frame always ends: within the line operations left of it, `rst` low, the block is idle and has
responded. -/
def Obligations.EveryFrameEnds : Prop :=
  ∀ (s : State) (n : Fin 937), s.seq = some n → s.rstQuiet 937 →
    ∃ k t, 1 ≤ k ∧ k ≤ 937 - n.val ∧ run k s = .next t ∧ t.busy = false ∧
      (t.rsp = some 0x00000000#32 ∨ t.rsp = some 0x60000000#32)

/-- R230: no step faults or is refused, and no instruction is. -/
def Obligations.NothingStopsTheMachine : Prop :=
  (∀ s : State, ∃ t, step s = .next t) ∧ (∀ (i : Instr) (s : State), ∃ t, exec i s = .next t)

/-! ## Whole-machine rules -/

/-- R28: the lines change only by a line operation of a frame: in a step with the block idle and `rst` low neither line,
nor the trace, nor the count of operations changes, whatever the host issues. -/
def Obligations.LinesChangeOnlyInsideAFrame : Prop :=
  ∀ s t : State, s.seq = none → s.rstLevel = false → step s = .next t →
    t.clk = s.clk ∧ t.dat = s.dat ∧ t.trace = s.trace ∧ t.nops = s.nops ∧ t.io = s.io

/-- R22, R26: which instructions can change the pixels or the default brightness; every other instruction leaves them. -/
def Obligations.WhoWritesPixelsAndDefault : Prop :=
  ∀ (i : Instr) (s t : State), exec i s = .next t →
    (i.writesPixels = false → t.pix = s.pix) ∧
    ((∀ q, i ≠ .setDefaultBrightness q) → i ≠ .reset → t.defb = s.defb) ∧
    t.requests = s.requests ∧ t.rst = s.rst

/-- R220, R28: no instruction but the transmitting ones and the wire items performs a line operation. -/
def Obligations.OnlyTransmitTouchesTheWire : Prop :=
  ∀ (i : Instr) (s t : State), exec i s = .next t → i.layer ≠ .wire → i ≠ .tx → i ≠ .transmit →
    SameWire s t ∧ t.io = s.io ∧ t.hostTx = s.hostTx

/-! ## Reset -/

/-- R38 (D9, D10, D24), R240 (with R241): the state after hardware reset. The fields that the spec does not list are the model's own
(log entries 2 to 6). -/
def Obligations.ResetValues : Prop :=
  (∀ i : Fin 8, State.reset.pix[i] = ⟨0, 0, 0, 0⟩) ∧ State.reset.defb = 1 ∧ State.reset.seq = none ∧
  State.reset.busy = false ∧ State.reset.trace = [] ∧ State.reset.nops = 0 ∧
  State.reset.clk = Config.clk0 ∧ State.reset.dat = Config.dat0

/-- After R240 (D9, D10), R242 (D30): a step with `rst` high is hardware reset. Idle, the lines go to `LINE_INIT`; in a frame
they keep their levels, and no response is sent. The model's choices in it: the response port is empty after the reset of an
idle block too (log entry 5), that reset moves the lines (log entry 11), every step with `rst` high is a reset of its own
(log entry 18). -/
def Obligations.HardwareResetStep : Prop :=
  ∀ s : State, s.rstLevel = true → ∃ t,
    step s = .next t ∧ (∀ i : Fin 8, t.pix[i] = ⟨0, 0, 0, 0⟩) ∧ t.defb = 1 ∧ t.seq = none ∧ t.busy = false ∧
    t.trace = [] ∧ t.nops = 0 ∧ t.rsp = none ∧
    (s.seq = none → t.clk = Config.clk0 ∧ t.dat = Config.dat0) ∧
    (s.seq ≠ none → t.clk = s.clk ∧ t.dat = s.dat)

/-! ## Encoding -/

/-- R80, R81, R84, R89: decoding the code word of any instruction that has one gives it back, every operand at every
value. -/
def Obligations.DecodeOfEncode : Prop :=
  ∀ (i : Instr) (cw : CodeWord), encode i = some cw → decode cw = .ok i

/-- R84: every code word that decodes is the code word of what it decodes to, so no bit of it is dropped. -/
def Obligations.EncodeOfDecode : Prop :=
  ∀ (i : Instr) (cw : CodeWord), decode cw = .ok i → encode i = some cw

/-- R81 (D3): each row of the opcode map stands for its command with its fields, a word that selects no row is no command,
and no word selects two rows. -/
def Obligations.OpcodeMapSelectsTheCommand : Prop :=
  (∀ w : CmdWord, w &&& 0xFF00000000#40 = 0x0100000000#40 →
    decodeCommand w = .ok (.wrpix (fieldIdx w) (fieldR w) (fieldG w) (fieldB w) (fieldLvl w))) ∧
  (∀ w : CmdWord, w &&& 0xFF1FFFFFFF#40 = 0x0200000000#40 → decodeCommand w = .ok (.clrpix (fieldIdx w))) ∧
  (∀ w : CmdWord, w &&& 0xFFFFFFFFFF#40 = 0x0300000000#40 → decodeCommand w = .ok .clrall) ∧
  (∀ w : CmdWord, w &&& 0xFFE0000000#40 = 0x0400000000#40 →
    decodeCommand w = .ok (.fill (fieldR w) (fieldG w) (fieldB w) (fieldLvl w))) ∧
  (∀ w : CmdWord, w &&& 0xFF1FFFFFFF#40 = 0x0500000000#40 → decodeCommand w = .ok (.rdpix (fieldIdx w))) ∧
  (∀ w : CmdWord, w &&& 0xFFFFFFFFFF#40 = 0x0600000000#40 → decodeCommand w = .ok .tx) ∧
  (∀ w : CmdWord, (∀ row ∈ commandRows, selectsRow w row = false) → ∃ e, decodeCommand w = .error e) ∧
  commandRows.Pairwise (fun a b => ∀ w : CmdWord, ¬ (selectsRow w a = true ∧ selectsRow w b = true)) ∧
  (∀ w : CmdWord, (fieldOp w = 0x00#8 ∨ 0x07#8 ≤ fieldOp w) → ∃ e, decodeCommand w = .error e)

/-- R89 and the encodings of R71, R72: words written out bit by bit from the spec decode to what they stand for. -/
def Obligations.WordsDecodeAsTheSpecSpells : Prop :=
  decodeCommand 0b0000000101100111000111100001010000001010#40 = .ok (.wrpix 3 10 20 30 7) ∧
  decodeCommand 0b0000001011100000000000000000000000000000#40 = .ok (.clrpix 7) ∧
  decodeCommand 0b0000010000000001000000110000001000000001#40 = .ok (.fill 1 2 3 1) ∧
  decodeCommand 0b0000011000000000000000000000000000000000#40 = .ok .tx ∧
  decodeWire 0b11100111000111100001010000001010#32 = .ok (.pixelPacket 10 20 30 7)

/-! ## The invariant -/

/-- The invariant holds after hardware reset. That `rsp` and `ret` are empty and `hostTx` false there is the model's choice
(log entries 5 and 6). -/
def Obligations.InvariantAtReset : Prop := State.reset.Inv

/-- Every step keeps the invariant. That a busy block has no response on the port rests on its acceptance of the `TX`
emptying the port (log entry 5), and the waiting and the result of a call are fields of the model (log entry 6). -/
def Obligations.StepKeepsTheInvariant : Prop := ∀ s t : State, s.Inv → step s = .next t → t.Inv
end

