-- ==== Sys2Proof/Laws/Decode.lean ====
section
/-! SUPPORT. The fields of a code word and the words of the encoder as numbers, from which every fact about the encoding
follows by arithmetic. -/

namespace Sys2Proof

/-- Concatenation as arithmetic. -/
theorem append_toNat {n m : Nat} (x : BitVec n) (y : BitVec m) : (x ++ y).toNat = x.toNat * 2 ^ m + y.toNat := by
  rw [BitVec.toNat_append, ← Nat.shiftLeft_add_eq_or_of_lt y.isLt, Nat.shiftLeft_eq]

/-- A slice as arithmetic. -/
theorem slice_toNat {n : Nat} (w : BitVec n) (lo len : Nat) :
    (w.extractLsb' lo len).toNat = w.toNat / 2 ^ lo % 2 ^ len := by
  rw [BitVec.extractLsb'_toNat, Nat.shiftRight_eq_div_pow]

theorem fieldOp_toNat (w : CmdWord) : (fieldOp w).toNat = w.toNat / 2 ^ 32 := by
  have := w.isLt
  rw [fieldOp, slice_toNat]; omega

theorem fieldIdx_val (w : CmdWord) : (fieldIdx w).val = w.toNat / 2 ^ 29 % 8 := slice_toNat w 29 3

theorem fieldLvl_toNat {n : Nat} (w : BitVec n) : (fieldLvl w).toNat = w.toNat / 2 ^ 24 % 32 := slice_toNat w 24 5

theorem fieldB_toNat {n : Nat} (w : BitVec n) : (fieldB w).toNat = w.toNat / 2 ^ 16 % 256 := slice_toNat w 16 8

theorem fieldG_toNat {n : Nat} (w : BitVec n) : (fieldG w).toNat = w.toNat / 2 ^ 8 % 256 := slice_toNat w 8 8

theorem fieldR_toNat {n : Nat} (w : BitVec n) : (fieldR w).toNat = w.toNat % 256 := by
  rw [fieldR, slice_toNat]; simp

/-- A command word as a number (R80). -/
theorem commandWord_toNat (op : BitVec 8) (idx : BitVec 3) (lvl : Level) (b g r : Byte) :
    (commandWord op idx lvl b g r).toNat =
      op.toNat * 2 ^ 32 + idx.toNat * 2 ^ 29 + lvl.toNat * 2 ^ 24 + b.toNat * 2 ^ 16 + g.toNat * 2 ^ 8 + r.toNat := by
  unfold commandWord
  simp only [append_toNat]; ring

/-- Two command words with the same fields are the same word. -/
theorem commandWord_fields (w : CmdWord) :
    w = commandWord (fieldOp w) (BitVec.ofNat 3 (fieldIdx w).val) (fieldLvl w) (fieldB w) (fieldG w) (fieldR w) := by
  apply BitVec.eq_of_toNat_eq
  have := w.isLt
  rw [commandWord_toNat, fieldOp_toNat, BitVec.toNat_ofNat, fieldIdx_val, fieldLvl_toNat, fieldB_toNat, fieldG_toNat,
    fieldR_toNat]
  omega

section fields
variable (op : BitVec 8) (idx : BitVec 3) (lvl : Level) (b g r : Byte)

@[simp] theorem fieldOp_commandWord : fieldOp (commandWord op idx lvl b g r) = op := by
  apply BitVec.eq_of_toNat_eq; rw [fieldOp_toNat, commandWord_toNat]; omega

@[simp] theorem fieldIdx_commandWord : fieldIdx (commandWord op idx lvl b g r) = ⟨idx.toNat, idx.isLt⟩ := by
  apply Fin.ext; rw [fieldIdx_val, commandWord_toNat]; simp only; omega

@[simp] theorem fieldLvl_commandWord : fieldLvl (commandWord op idx lvl b g r) = lvl := by
  apply BitVec.eq_of_toNat_eq; rw [fieldLvl_toNat, commandWord_toNat]; omega

@[simp] theorem fieldB_commandWord : fieldB (commandWord op idx lvl b g r) = b := by
  apply BitVec.eq_of_toNat_eq; rw [fieldB_toNat, commandWord_toNat]; omega

@[simp] theorem fieldG_commandWord : fieldG (commandWord op idx lvl b g r) = g := by
  apply BitVec.eq_of_toNat_eq; rw [fieldG_toNat, commandWord_toNat]; omega

@[simp] theorem fieldR_commandWord : fieldR (commandWord op idx lvl b g r) = r := by
  apply BitVec.eq_of_toNat_eq; rw [fieldR_toNat, commandWord_toNat]; omega

end fields

/-- A must-be-zero check answers the command exactly where the bits are zero. -/
theorem ifZero_ok {n : Nat} {bits : BitVec n} {m : String} {i j : Instr} :
    ifZero bits m i = .ok j ↔ bits = 0 ∧ i = j := by
  unfold ifZero; split <;> simp_all

end Sys2Proof
end

