-- ==== Sys2Proof/Laws/State.lean ====
section
/-! SUPPORT. One lemma per field per update of the state, each true by rfl. -/

namespace Sys2Proof.Machine

variable (s : State)

/-! ## `writePix` -/

@[simp] theorem writePix_pix (i : Fin 8) (p : Pixel) : (s.writePix i p).pix = s.pix.set i p := rfl
@[simp] theorem writePix_defb (i : Fin 8) (p : Pixel) : (s.writePix i p).defb = s.defb := rfl
@[simp] theorem writePix_clk (i : Fin 8) (p : Pixel) : (s.writePix i p).clk = s.clk := rfl
@[simp] theorem writePix_dat (i : Fin 8) (p : Pixel) : (s.writePix i p).dat = s.dat := rfl
@[simp] theorem writePix_seq (i : Fin 8) (p : Pixel) : (s.writePix i p).seq = s.seq := rfl
@[simp] theorem writePix_trace (i : Fin 8) (p : Pixel) : (s.writePix i p).trace = s.trace := rfl
@[simp] theorem writePix_nops (i : Fin 8) (p : Pixel) : (s.writePix i p).nops = s.nops := rfl
@[simp] theorem writePix_rsp (i : Fin 8) (p : Pixel) : (s.writePix i p).rsp = s.rsp := rfl
@[simp] theorem writePix_ret (i : Fin 8) (p : Pixel) : (s.writePix i p).ret = s.ret := rfl
@[simp] theorem writePix_hostTx (i : Fin 8) (p : Pixel) : (s.writePix i p).hostTx = s.hostTx := rfl
@[simp] theorem writePix_requests (i : Fin 8) (p : Pixel) : (s.writePix i p).requests = s.requests := rfl
@[simp] theorem writePix_io (i : Fin 8) (p : Pixel) : (s.writePix i p).io = s.io := rfl
@[simp] theorem writePix_rst (i : Fin 8) (p : Pixel) : (s.writePix i p).rst = s.rst := rfl

/-! ## `fillPix` -/

@[simp] theorem fillPix_pix (p : Pixel) : (s.fillPix p).pix = Vector.replicate 8 p := rfl
@[simp] theorem fillPix_defb (p : Pixel) : (s.fillPix p).defb = s.defb := rfl
@[simp] theorem fillPix_clk (p : Pixel) : (s.fillPix p).clk = s.clk := rfl
@[simp] theorem fillPix_dat (p : Pixel) : (s.fillPix p).dat = s.dat := rfl
@[simp] theorem fillPix_seq (p : Pixel) : (s.fillPix p).seq = s.seq := rfl
@[simp] theorem fillPix_trace (p : Pixel) : (s.fillPix p).trace = s.trace := rfl
@[simp] theorem fillPix_nops (p : Pixel) : (s.fillPix p).nops = s.nops := rfl
@[simp] theorem fillPix_rsp (p : Pixel) : (s.fillPix p).rsp = s.rsp := rfl
@[simp] theorem fillPix_ret (p : Pixel) : (s.fillPix p).ret = s.ret := rfl
@[simp] theorem fillPix_hostTx (p : Pixel) : (s.fillPix p).hostTx = s.hostTx := rfl
@[simp] theorem fillPix_requests (p : Pixel) : (s.fillPix p).requests = s.requests := rfl
@[simp] theorem fillPix_io (p : Pixel) : (s.fillPix p).io = s.io := rfl
@[simp] theorem fillPix_rst (p : Pixel) : (s.fillPix p).rst = s.rst := rfl

/-! ## `respond` -/

@[simp] theorem respond_pix (c : Code) (d : Packed) : (respond c d s).pix = s.pix := rfl
@[simp] theorem respond_defb (c : Code) (d : Packed) : (respond c d s).defb = s.defb := rfl
@[simp] theorem respond_clk (c : Code) (d : Packed) : (respond c d s).clk = s.clk := rfl
@[simp] theorem respond_dat (c : Code) (d : Packed) : (respond c d s).dat = s.dat := rfl
@[simp] theorem respond_seq (c : Code) (d : Packed) : (respond c d s).seq = s.seq := rfl
@[simp] theorem respond_trace (c : Code) (d : Packed) : (respond c d s).trace = s.trace := rfl
@[simp] theorem respond_nops (c : Code) (d : Packed) : (respond c d s).nops = s.nops := rfl
@[simp] theorem respond_rsp (c : Code) (d : Packed) : (respond c d s).rsp = some (respWord c d) := rfl
@[simp] theorem respond_ret (c : Code) (d : Packed) : (respond c d s).ret = s.ret := rfl
@[simp] theorem respond_hostTx (c : Code) (d : Packed) : (respond c d s).hostTx = s.hostTx := rfl
@[simp] theorem respond_requests (c : Code) (d : Packed) : (respond c d s).requests = s.requests := rfl
@[simp] theorem respond_io (c : Code) (d : Packed) : (respond c d s).io = s.io := rfl
@[simp] theorem respond_rst (c : Code) (d : Packed) : (respond c d s).rst = s.rst := rfl

/-! ## `giveBack` -/

@[simp] theorem giveBack_pix (r : HostResult) : (giveBack r s).pix = s.pix := rfl
@[simp] theorem giveBack_defb (r : HostResult) : (giveBack r s).defb = s.defb := rfl
@[simp] theorem giveBack_clk (r : HostResult) : (giveBack r s).clk = s.clk := rfl
@[simp] theorem giveBack_dat (r : HostResult) : (giveBack r s).dat = s.dat := rfl
@[simp] theorem giveBack_seq (r : HostResult) : (giveBack r s).seq = s.seq := rfl
@[simp] theorem giveBack_trace (r : HostResult) : (giveBack r s).trace = s.trace := rfl
@[simp] theorem giveBack_nops (r : HostResult) : (giveBack r s).nops = s.nops := rfl
@[simp] theorem giveBack_rsp (r : HostResult) : (giveBack r s).rsp = s.rsp := rfl
@[simp] theorem giveBack_ret (r : HostResult) : (giveBack r s).ret = some r := rfl
@[simp] theorem giveBack_hostTx (r : HostResult) : (giveBack r s).hostTx = s.hostTx := rfl
@[simp] theorem giveBack_requests (r : HostResult) : (giveBack r s).requests = s.requests := rfl
@[simp] theorem giveBack_io (r : HostResult) : (giveBack r s).io = s.io := rfl
@[simp] theorem giveBack_rst (r : HostResult) : (giveBack r s).rst = s.rst := rfl

/-! ## `completeTx` -/

@[simp] theorem completeTx_pix (c : Code) : (completeTx c s).pix = s.pix := rfl
@[simp] theorem completeTx_defb (c : Code) : (completeTx c s).defb = s.defb := rfl
@[simp] theorem completeTx_clk (c : Code) : (completeTx c s).clk = s.clk := rfl
@[simp] theorem completeTx_dat (c : Code) : (completeTx c s).dat = s.dat := rfl
@[simp] theorem completeTx_seq (c : Code) : (completeTx c s).seq = none := rfl
@[simp] theorem completeTx_trace (c : Code) : (completeTx c s).trace = s.trace := rfl
@[simp] theorem completeTx_nops (c : Code) : (completeTx c s).nops = s.nops := rfl
@[simp] theorem completeTx_rsp (c : Code) : (completeTx c s).rsp = some (respWord c 0) := rfl
@[simp] theorem completeTx_ret (c : Code) : (completeTx c s).ret = if s.hostTx then some (txResult c) else s.ret := rfl
@[simp] theorem completeTx_hostTx (c : Code) : (completeTx c s).hostTx = false := rfl
@[simp] theorem completeTx_requests (c : Code) : (completeTx c s).requests = s.requests := rfl
@[simp] theorem completeTx_io (c : Code) : (completeTx c s).io = s.io := rfl
@[simp] theorem completeTx_rst (c : Code) : (completeTx c s).rst = s.rst := rfl

/-! ## `acceptTx` -/

@[simp] theorem acceptTx_pix : (acceptTx s).pix = s.pix := rfl
@[simp] theorem acceptTx_defb : (acceptTx s).defb = s.defb := rfl
@[simp] theorem acceptTx_clk : (acceptTx s).clk = s.clk := rfl
@[simp] theorem acceptTx_dat : (acceptTx s).dat = s.dat := rfl
@[simp] theorem acceptTx_seq : (acceptTx s).seq = some 0 := rfl
@[simp] theorem acceptTx_trace : (acceptTx s).trace = s.trace := rfl
@[simp] theorem acceptTx_nops : (acceptTx s).nops = s.nops := rfl
@[simp] theorem acceptTx_rsp : (acceptTx s).rsp = none := rfl
@[simp] theorem acceptTx_ret : (acceptTx s).ret = s.ret := rfl
@[simp] theorem acceptTx_hostTx : (acceptTx s).hostTx = false := rfl
@[simp] theorem acceptTx_requests : (acceptTx s).requests = s.requests := rfl
@[simp] theorem acceptTx_io : (acceptTx s).io = s.io := rfl
@[simp] theorem acceptTx_rst : (acceptTx s).rst = s.rst := rfl

/-! ## `acceptTransmit` -/

@[simp] theorem acceptTransmit_pix : (acceptTransmit s).pix = s.pix := rfl
@[simp] theorem acceptTransmit_defb : (acceptTransmit s).defb = s.defb := rfl
@[simp] theorem acceptTransmit_clk : (acceptTransmit s).clk = s.clk := rfl
@[simp] theorem acceptTransmit_dat : (acceptTransmit s).dat = s.dat := rfl
@[simp] theorem acceptTransmit_seq : (acceptTransmit s).seq = some 0 := rfl
@[simp] theorem acceptTransmit_trace : (acceptTransmit s).trace = s.trace := rfl
@[simp] theorem acceptTransmit_nops : (acceptTransmit s).nops = s.nops := rfl
@[simp] theorem acceptTransmit_rsp : (acceptTransmit s).rsp = none := rfl
@[simp] theorem acceptTransmit_ret : (acceptTransmit s).ret = none := rfl
@[simp] theorem acceptTransmit_hostTx : (acceptTransmit s).hostTx = true := rfl
@[simp] theorem acceptTransmit_requests : (acceptTransmit s).requests = s.requests := rfl
@[simp] theorem acceptTransmit_io : (acceptTransmit s).io = s.io := rfl
@[simp] theorem acceptTransmit_rst : (acceptTransmit s).rst = s.rst := rfl

/-! ## `countOp` -/

@[simp] theorem countOp_pix : (s.countOp).pix = s.pix := rfl
@[simp] theorem countOp_defb : (s.countOp).defb = s.defb := rfl
@[simp] theorem countOp_clk : (s.countOp).clk = s.clk := rfl
@[simp] theorem countOp_dat : (s.countOp).dat = s.dat := rfl
@[simp] theorem countOp_seq : (s.countOp).seq = s.seq := rfl
@[simp] theorem countOp_trace : (s.countOp).trace = s.trace := rfl
@[simp] theorem countOp_nops : (s.countOp).nops = s.nops + 1 := rfl
@[simp] theorem countOp_rsp : (s.countOp).rsp = s.rsp := rfl
@[simp] theorem countOp_ret : (s.countOp).ret = s.ret := rfl
@[simp] theorem countOp_hostTx : (s.countOp).hostTx = s.hostTx := rfl
@[simp] theorem countOp_requests : (s.countOp).requests = s.requests := rfl
@[simp] theorem countOp_io : (s.countOp).io = s.io.tail := rfl
@[simp] theorem countOp_rst : (s.countOp).rst = s.rst := rfl

/-! ## `popRst` -/

@[simp] theorem popRst_pix : (s.popRst).pix = s.pix := rfl
@[simp] theorem popRst_defb : (s.popRst).defb = s.defb := rfl
@[simp] theorem popRst_clk : (s.popRst).clk = s.clk := rfl
@[simp] theorem popRst_dat : (s.popRst).dat = s.dat := rfl
@[simp] theorem popRst_seq : (s.popRst).seq = s.seq := rfl
@[simp] theorem popRst_trace : (s.popRst).trace = s.trace := rfl
@[simp] theorem popRst_nops : (s.popRst).nops = s.nops := rfl
@[simp] theorem popRst_rsp : (s.popRst).rsp = s.rsp := rfl
@[simp] theorem popRst_ret : (s.popRst).ret = s.ret := rfl
@[simp] theorem popRst_hostTx : (s.popRst).hostTx = s.hostTx := rfl
@[simp] theorem popRst_requests : (s.popRst).requests = s.requests := rfl
@[simp] theorem popRst_io : (s.popRst).io = s.io := rfl
@[simp] theorem popRst_rst : (s.popRst).rst = s.rst.tail := rfl

/-! ## `drive`: the driven line takes the level, the other keeps its own -/

@[simp] theorem drive_clk (op : LineOp) : (s.drive op).clk = if op.line = .clk then op.level else s.clk := by
  obtain ⟨l, v⟩ := op; cases l <;> rfl

@[simp] theorem drive_dat (op : LineOp) : (s.drive op).dat = if op.line = .dat then op.level else s.dat := by
  obtain ⟨l, v⟩ := op; cases l <;> rfl

@[simp] theorem drive_pix (op : LineOp) : (s.drive op).pix = s.pix := by
  obtain ⟨l, v⟩ := op; cases l <;> rfl

@[simp] theorem drive_defb (op : LineOp) : (s.drive op).defb = s.defb := by
  obtain ⟨l, v⟩ := op; cases l <;> rfl

@[simp] theorem drive_seq (op : LineOp) : (s.drive op).seq = s.seq := by
  obtain ⟨l, v⟩ := op; cases l <;> rfl

@[simp] theorem drive_trace (op : LineOp) : (s.drive op).trace = s.trace := by
  obtain ⟨l, v⟩ := op; cases l <;> rfl

@[simp] theorem drive_nops (op : LineOp) : (s.drive op).nops = s.nops := by
  obtain ⟨l, v⟩ := op; cases l <;> rfl

@[simp] theorem drive_rsp (op : LineOp) : (s.drive op).rsp = s.rsp := by
  obtain ⟨l, v⟩ := op; cases l <;> rfl

@[simp] theorem drive_ret (op : LineOp) : (s.drive op).ret = s.ret := by
  obtain ⟨l, v⟩ := op; cases l <;> rfl

@[simp] theorem drive_hostTx (op : LineOp) : (s.drive op).hostTx = s.hostTx := by
  obtain ⟨l, v⟩ := op; cases l <;> rfl

@[simp] theorem drive_requests (op : LineOp) : (s.drive op).requests = s.requests := by
  obtain ⟨l, v⟩ := op; cases l <;> rfl

@[simp] theorem drive_io (op : LineOp) : (s.drive op).io = s.io := by
  obtain ⟨l, v⟩ := op; cases l <;> rfl

@[simp] theorem drive_rst (op : LineOp) : (s.drive op).rst = s.rst := by
  obtain ⟨l, v⟩ := op; cases l <;> rfl

/-! ## `raiseHost` -/

@[simp] theorem raiseHost_eq (c : Code) : raiseHost c s = { s with ret := some (.raised c) } := rfl

/-! ## The inputs after a hardware reset -/

@[simp] theorem hardReset_requests : (hardReset s).requests = s.requests := rfl
@[simp] theorem hardReset_io : (hardReset s).io = s.io := rfl
@[simp] theorem hardReset_rst : (hardReset s).rst = s.rst := rfl
@[simp] theorem hardReset_seq : (hardReset s).seq = none := rfl

end Sys2Proof.Machine
end

