-- ==== Sys2Proof/Laws/Operands.lean ====
section
/-! SUPPORT. What the checks, the narrowing, `quantise` and `lerp` do. -/

namespace Sys2Proof.Machine

/-! ## Checks: no error exactly in bounds -/

theorem chkIndex_eq (i : Int) : chkIndex i = if indexOk i then none else some .outOfRange := by
  unfold chkIndex indexOk
  by_cases h : 0 ≤ i ∧ i ≤ 7
  · rw [if_neg (by simp; omega)]; simp [h]
  · rw [if_pos (by simp; omega)]; simp [h]

theorem chkChan_eq (c : Int) : chkChan c = if chanOk c then none else some .outOfRange := by
  unfold chkChan chanOk
  by_cases h : 0 ≤ c ∧ c ≤ 255
  · rw [if_neg (by simp; omega)]; simp [h]
  · rw [if_pos (by simp; omega)]; simp [h]

theorem chkBright_eq (q : Rat) : chkBright q = if brightOk q then none else some .outOfRange := by
  unfold chkBright brightOk
  by_cases h : 0 ≤ q ∧ q ≤ 1
  · rw [if_neg (by rintro (h' | h') <;> linarith [h.1, h.2])]; simp [h]
  · rw [if_pos (by by_contra hc; push Not at hc; exact h hc)]; simp [h]

theorem chkLen_eq {α : Type} (xs : List α) :
    chkLen xs = if xs.length == 8 then none else some .lengthMismatch := by
  unfold chkLen; by_cases h : xs.length = 8 <;> simp [h]

/-- The first error of two lists of checks is that of the first list, if it has one. -/
theorem firstError_append (as bs : List (Option Code)) :
    firstError (as ++ bs) = (firstError as).or (firstError bs) := by
  induction as with
  | nil => simp [firstError]
  | cons a as ih => cases a <;> simp [firstError, ih]

theorem firstError_colour (c : Colour) :
    firstError (chkColour c) = if colourOk c then none else some .outOfRange := by
  unfold chkColour colourOk
  rw [chkChan_eq, chkChan_eq, chkChan_eq]
  cases chanOk c.red <;> cases chanOk c.green <;> cases chanOk c.blue <;> rfl

theorem firstError_colours (cs : List Colour) :
    firstError (cs.flatMap chkColour) = if cs.all colourOk then none else some .outOfRange := by
  induction cs with
  | nil => rfl
  | cons c cs ih =>
    rw [List.flatMap_cons, firstError_append, firstError_colour, ih, List.all_cons]
    cases colourOk c <;> cases cs.all colourOk <;> rfl

theorem firstError_brights (qs : List Rat) :
    firstError (qs.map chkBright) = if qs.all brightOk then none else some .outOfRange := by
  induction qs with
  | nil => rfl
  | cons q qs ih =>
    rw [List.map_cons, chkBright_eq, List.all_cons]
    cases brightOk q <;> simp [firstError, ih]

/-! ## The checks of each shape of operation, as one condition -/

theorem firstError_setPixel (i : Int) (c : Colour) (q : Rat) :
    firstError ([chkIndex i] ++ chkColour c ++ [chkBright q]) =
      if indexOk i && colourOk c && brightOk q then none else some .outOfRange := by
  simp only [firstError_append, firstError_colour, chkIndex_eq, chkBright_eq]
  cases indexOk i <;> cases colourOk c <;> cases brightOk q <;> rfl

theorem firstError_setPixelDefault (i : Int) (c : Colour) :
    firstError ([chkIndex i] ++ chkColour c) = if indexOk i && colourOk c then none else some .outOfRange := by
  simp only [firstError_append, firstError_colour, chkIndex_eq]
  cases indexOk i <;> cases colourOk c <;> rfl

theorem firstError_setAll (c : Colour) (q : Rat) :
    firstError (chkColour c ++ [chkBright q]) = if colourOk c && brightOk q then none else some .outOfRange := by
  simp only [firstError_append, firstError_colour, chkBright_eq]
  cases colourOk c <;> cases brightOk q <;> rfl

theorem firstError_gradient (c0 c1 : Colour) (q0 q1 : Rat) :
    firstError (chkColour c0 ++ chkColour c1 ++ [chkBright q0, chkBright q1]) =
      if colourOk c0 && colourOk c1 && brightOk q0 && brightOk q1 then none else some .outOfRange := by
  simp only [firstError_append, firstError_colour, chkBright_eq]
  cases colourOk c0 <;> cases colourOk c1 <;> cases brightOk q0 <;> cases brightOk q1 <;> rfl

/-- An error that a list of checks raises is one of them. -/
theorem firstError_mem {cs : List (Option Code)} {c : Code} (h : firstError cs = some c) : some c ∈ cs := by
  induction cs with
  | nil => cases h
  | cons a cs ih =>
    cases a with
    | none => exact List.mem_cons_of_mem _ (ih h)
    | some d => cases h; exact List.mem_cons_self

/-- The two phases of an operation. -/
theorem checked_none {cs : List (Option Code)} (act : State → State) (s : State) (h : firstError cs = none) :
    checked cs act s = act s := by simp [checked, h]

theorem checked_some {cs : List (Option Code)} {c : Code} (act : State → State) (s : State)
    (h : firstError cs = some c) : checked cs act s = { s with ret := some (.raised c) } := by simp [checked, h]

/-- Both phases at once: an operation acts, or raises the first error and does nothing else. -/
theorem checked_cases (cs : List (Option Code)) (act : State → State) (s : State) :
    (firstError cs = none ∧ checked cs act s = act s) ∨
      ∃ c, some c ∈ cs ∧ checked cs act s = { s with ret := some (.raised c) } := by
  cases h : firstError cs with
  | none => exact .inl ⟨rfl, checked_none act s h⟩
  | some c => exact .inr ⟨c, firstError_mem h, checked_some act s h⟩

/-! ## Narrowing loses nothing after the check (R87) -/

@[simp] theorem narrowIndex_val (i : Fin 8) : narrowIndex (i.val : Int) = i := by
  apply Fin.ext; simp [narrowIndex]

@[simp] theorem narrowChan_toNat (c : Byte) : narrowChan (c.toNat : Int) = c := by simp [narrowChan]

theorem narrowChan_of_ok {c : Int} (h : chanOk c = true) : ((narrowChan c).toNat : Int) = c := by
  have h' : 0 ≤ c ∧ c ≤ 255 := of_decide_eq_true h
  rw [narrowChan, BitVec.toNat_ofInt]; omega

/-- `quantise` is the floor of `q * 31`. -/
theorem quantise_eq (q : Rat) : quantise q = ⌊q * 31⌋ := rfl

/-- In bounds the level lies in 0..31. -/
theorem quantise_bounds {q : Rat} (h0 : 0 ≤ q) (h1 : q ≤ 1) : 0 ≤ quantise q ∧ quantise q ≤ 31 := by
  rw [quantise_eq]
  exact ⟨Int.floor_nonneg.mpr (by linarith), by
    have := Int.floor_le_floor (show q * 31 ≤ (31 : Int) by push_cast; linarith)
    simpa using this⟩

theorem narrowBright_toNat {q : Rat} (h0 : 0 ≤ q) (h1 : q ≤ 1) : ((narrowBright q).toNat : Int) = ⌊q * 31⌋ := by
  have h := quantise_bounds h0 h1
  rw [← quantise_eq, narrowBright, BitVec.toNat_ofInt]; omega

/-! ## Interpolation -/

theorem lerp_eq (s e : Rat) (i : Nat) : lerp s e i = s + (e - s) * i / 7 := rfl

/-- `lerp` lies between its end points (R178). -/
theorem lerp_mem {a b s e : Rat} (hs : a ≤ s ∧ s ≤ b) (he : a ≤ e ∧ e ≤ b) {i : Nat} (hi : i ≤ 7) :
    a ≤ lerp s e i ∧ lerp s e i ≤ b := by
  have h : (i : Rat) ≤ 7 := by exact_mod_cast hi
  have h0 : (0 : Rat) ≤ i := Nat.cast_nonneg i
  have : lerp s e i = (s * (7 - i) + e * i) / 7 := by rw [lerp_eq]; ring
  rw [this]
  constructor
  · rw [le_div_iff₀ (by norm_num)]; nlinarith [mul_le_mul_of_nonneg_right hs.1 (sub_nonneg.mpr h), mul_le_mul_of_nonneg_right he.1 h0]
  · rw [div_le_iff₀ (by norm_num)]; nlinarith [mul_le_mul_of_nonneg_right hs.2 (sub_nonneg.mpr h), mul_le_mul_of_nonneg_right he.2 h0]

/-- The integer form of a gradient channel (R180). -/
theorem gradChan_eq (s e : Int) (i : Nat) : gradChan s e i = (s * (7 - i) + e * i) / 7 := by
  have : lerp s e i = ((s * (7 - i) + e * i : Int) : Rat) / ((7 : Int) : Rat) := by rw [lerp_eq]; push_cast; ring
  rw [gradChan, this]
  exact Rat.floor_intCast_div_natCast _ 7

/-! ## The writes of a whole-buffer operation -/

theorem writePixels_cons (w : Fin 8 × Pixel) (ws : List (Fin 8 × Pixel)) (s : State) :
    writePixels (w :: ws) s = writePixels ws (wrpixState w.1 w.2 s) := rfl

/-- Writing some pixels changes the pixels and the response alone. -/
theorem writePixels_frame (ws : List (Fin 8 × Pixel)) (s : State) :
    writePixels ws s =
      { s with pix := (writePixels ws s).pix, rsp := if ws = [] then s.rsp else some (respWord .ok 0) } := by
  induction ws generalizing s with
  | nil => rfl
  | cons w ws ih =>
    rw [writePixels_cons, ih]
    cases ws <;> simp [wrpixState, respond, State.writePix, writePixels]

/-- Eight pixels written in the order of the indices: pixel i is the i-th of them. -/
theorem writePixels_zip (ps : List Pixel) (h : ps.length = 8) (s : State) :
    writePixels (allIdx.zip ps) s = { s with pix := ⟨ps.toArray, by simpa using h⟩, rsp := some (respWord .ok 0) } := by
  match ps, h with
  | [p0, p1, p2, p3, p4, p5, p6, p7], _ =>
    have : (writePixels (allIdx.zip [p0, p1, p2, p3, p4, p5, p6, p7]) s).pix = #v[p0, p1, p2, p3, p4, p5, p6, p7] := by
      simp only [allIdx, List.zip_cons_cons, List.zip_nil_right, writePixels, wrpixState]
      apply Vector.ext
      intro i hi
      match i, hi with
      | 0, _ | 1, _ | 2, _ | 3, _ | 4, _ | 5, _ | 6, _ | 7, _ => simp
    rw [writePixels_frame, this]
    simp [allIdx]

/-- The gradient form of the same. -/
theorem writePixels_map (f : Fin 8 → Pixel) (s : State) :
    writePixels (allIdx.map fun i => (i, f i)) s =
      { s with pix := #v[f 0, f 1, f 2, f 3, f 4, f 5, f 6, f 7], rsp := some (respWord .ok 0) } :=
  writePixels_zip [f 0, f 1, f 2, f 3, f 4, f 5, f 6, f 7] rfl s

end Sys2Proof.Machine
end

