-- ==== Sys2Proof/Laws/Ops.lean ====
section
/-! SUPPORT. What one line operation can do, said once, and the sequencing laws of line operations: an emitter is the
`emit` of its list. -/

namespace Sys2Proof.Machine

/-! ## One line operation -/

/-- After the last line operation of a frame `SEQ` is idle, before it one further (R31). -/
def nextSeq : Option (Fin 937) → Option (Fin 937)
  | none => none
  | some n => if h : n.val + 1 < 937 then some ⟨n.val + 1, h⟩ else none

@[simp] theorem advanceSeq_pix (s : State) : (advanceSeq s).pix = s.pix := by
  unfold advanceSeq; repeat' split
  all_goals rfl

@[simp] theorem advanceSeq_defb (s : State) : (advanceSeq s).defb = s.defb := by
  unfold advanceSeq; repeat' split
  all_goals rfl

@[simp] theorem advanceSeq_clk (s : State) : (advanceSeq s).clk = s.clk := by
  unfold advanceSeq; repeat' split
  all_goals rfl

@[simp] theorem advanceSeq_dat (s : State) : (advanceSeq s).dat = s.dat := by
  unfold advanceSeq; repeat' split
  all_goals rfl

@[simp] theorem advanceSeq_trace (s : State) : (advanceSeq s).trace = s.trace := by
  unfold advanceSeq; repeat' split
  all_goals rfl

@[simp] theorem advanceSeq_nops (s : State) : (advanceSeq s).nops = s.nops := by
  unfold advanceSeq; repeat' split
  all_goals rfl

@[simp] theorem advanceSeq_io (s : State) : (advanceSeq s).io = s.io := by
  unfold advanceSeq; repeat' split
  all_goals rfl

@[simp] theorem advanceSeq_requests (s : State) : (advanceSeq s).requests = s.requests := by
  unfold advanceSeq; repeat' split
  all_goals rfl

@[simp] theorem advanceSeq_rst (s : State) : (advanceSeq s).rst = s.rst := by
  unfold advanceSeq; repeat' split
  all_goals rfl

@[simp] theorem advanceSeq_seq (s : State) : (advanceSeq s).seq = nextSeq s.seq := by
  cases h : s.seq with
  | none => simp [advanceSeq, nextSeq, h]
  | some n => by_cases hn : n.val + 1 < 937 <;> simp [advanceSeq, nextSeq, h, hn, completeTx]

/-- Before the last line operation, advancing moves `SEQ` and nothing else. -/
theorem advanceSeq_of_lt {s : State} {n : Fin 937} (hs : s.seq = some n) (h : n.val + 1 < 937) :
    advanceSeq s = { s with seq := some ⟨n.val + 1, h⟩ } := by simp [advanceSeq, hs, h]

/-- At the last line operation, advancing completes the `TX`. -/
theorem advanceSeq_of_last {s : State} {n : Fin 937} (hs : s.seq = some n) (h : ¬ n.val + 1 < 937) :
    advanceSeq s = completeTx .ok s := by simp [advanceSeq, hs, h]

theorem advanceSeq_of_idle {s : State} (hs : s.seq = none) : advanceSeq s = s := by simp [advanceSeq, hs]

/-- A performed line operation. -/
theorem lineSet_performed {op : LineOp} {s : State} (h : s.answerAt 0 = .performed) :
    lineSet op s = ⟨advanceSeq { (s.countOp.drive op) with trace := s.trace ++ [op] }, true⟩ := by
  simp [lineSet, h, lineSetWith]

/-- A failed line operation. -/
theorem lineSet_failed {op : LineOp} {took : Bit} {s : State} (h : s.answerAt 0 = .failed took) :
    lineSet op s = ⟨completeTx .ioFailure (if took then s.countOp.drive op else s.countOp), false⟩ := by
  simp [lineSet, h, lineSetWith]

/-- What a line operation leaves, whatever the answer to it. -/
theorem lineSet_frame (op : LineOp) (s : State) :
    (lineSet op s).state.pix = s.pix ∧ (lineSet op s).state.defb = s.defb ∧
      (lineSet op s).state.requests = s.requests ∧ (lineSet op s).state.rst = s.rst ∧
      (lineSet op s).state.nops = s.nops + 1 ∧ (lineSet op s).state.io = s.io.tail := by
  unfold lineSet lineSetWith
  cases s.answerAt 0 with
  | performed => simp
  | failed took => cases took <;> simp

@[simp] theorem lineSet_pix (op : LineOp) (s : State) : (lineSet op s).state.pix = s.pix := (lineSet_frame op s).1

/-- The answers after a line operation are the answers before it, one place on. -/
theorem lineSet_answerAt (op : LineOp) (s : State) (j : Nat) :
    (lineSet op s).state.answerAt j = s.answerAt (j + 1) := by
  obtain ⟨-, -, -, -, hn, hi⟩ := lineSet_frame op s
  unfold State.answerAt
  rw [hn, hi, List.getElem?_tail, Nat.add_right_comm, Nat.add_assoc]

/-- A failed line operation ends the frame with the response `IoFailure`; a performed one is recorded. -/
theorem lineSet_trace (op : LineOp) (s : State) :
    (lineSet op s).done = decide (s.answerAt 0 = .performed) ∧
      (lineSet op s).state.trace = if s.answerAt 0 = .performed then s.trace ++ [op] else s.trace := by
  cases h : s.answerAt 0 with
  | performed => simp [lineSet_performed h]
  | failed took => cases took <;> simp [lineSet_failed h]

/-! ## Sequencing -/

theorem andThen_done {p q : State → Attempt} {s : State} (h : (p s).done = true) : andThen p q s = q (p s).state := by
  simp [andThen, h]

theorem andThen_stopped {p q : State → Attempt} {s : State} (h : (p s).done = false) : andThen p q s = p s := by
  simp [andThen, h]

theorem andThen_assoc (p q r : State → Attempt) (s : State) :
    andThen p (andThen q r) s = andThen (andThen p q) r s := by
  cases h : (p s).done <;> simp [andThen, h]

theorem andThen_congr {p p' q q' : State → Attempt} (hp : ∀ s, p s = p' s) (hq : ∀ s, q s = q' s) (s : State) :
    andThen p q s = andThen p' q' s := by simp [andThen, hp, hq]

@[simp] theorem forEach_nil {α : Type} (f : α → State → Attempt) (s : State) : forEach f [] s = ⟨s, true⟩ := rfl

theorem forEach_cons {α : Type} (f : α → State → Attempt) (x : α) (xs : List α) (s : State) :
    forEach f (x :: xs) s = andThen (f x) (forEach f xs) s := rfl

theorem forEach_append {α : Type} (f : α → State → Attempt) (xs ys : List α) (s : State) :
    forEach f (xs ++ ys) s = andThen (forEach f xs) (forEach f ys) s := by
  induction xs generalizing s with
  | nil => simp [andThen]
  | cons x xs ih =>
    rw [List.cons_append, forEach_cons, andThen_congr (fun _ => rfl) ih, andThen_assoc]
    rfl

/-- Sequencing pieces that are each an `emit` is the `emit` of their lists joined. -/
theorem forEach_emit {α : Type} {f : α → State → Attempt} {g : α → List LineOp} (h : ∀ x s, f x s = emit (g x) s)
    (xs : List α) (s : State) : forEach f xs s = emit (xs.flatMap g) s := by
  induction xs generalizing s with
  | nil => rfl
  | cons x xs ih =>
    rw [forEach_cons, andThen_congr (h x) ih, List.flatMap_cons]
    exact (forEach_append lineSet _ _ s).symm

theorem emit_append (xs ys : List LineOp) (s : State) : emit (xs ++ ys) s = andThen (emit xs) (emit ys) s :=
  forEach_append lineSet xs ys s

theorem emit_cons (op : LineOp) (ops : List LineOp) (s : State) :
    emit (op :: ops) s = andThen (lineSet op) (emit ops) s := rfl

/-- One operation by itself. -/
theorem emit_one (op : LineOp) (s : State) : emit [op] s = lineSet op s := by
  rw [emit_cons]
  cases h : (lineSet op s).done
  · rw [andThen_stopped h]
  · rw [andThen_done h]; cases hh : lineSet op s; simp_all [emit]

/-- Two pieces that are each an `emit` where they run: their sequence is the `emit` of the lists joined. -/
theorem andThen_emit {p q : State → Attempt} {s : State} {xs ys : List LineOp} (hp : p s = emit xs s)
    (hq : q (emit xs s).state = emit ys (emit xs s).state) : andThen p q s = emit (xs ++ ys) s := by
  rw [emit_append]
  cases h : (emit xs s).done
  · rw [andThen_stopped h, andThen_stopped (by rw [hp]; exact h), hp]
  · rw [andThen_done h, andThen_done (by rw [hp]; exact h), hp, hq]

@[simp] theorem emit_pix (ops : List LineOp) (s : State) : (emit ops s).state.pix = s.pix := by
  induction ops generalizing s with
  | nil => rfl
  | cons op ops ih =>
    rw [emit_cons]
    cases h : (lineSet op s).done
    · rw [andThen_stopped h, lineSet_pix]
    · rw [andThen_done h, ih, lineSet_pix]

/-! ## Levels -/

theorem levelsAfter_append (c d : Bit) (xs ys : List LineOp) :
    levelsAfter c d (xs ++ ys) = levelsAfter (levelsAfter c d xs).1 (levelsAfter c d xs).2 ys := by
  induction xs generalizing c d with
  | nil => rfl
  | cons op xs ih => obtain ⟨l, v⟩ := op; cases l <;> exact ih ..

/-- A byte, a word and a pulse leave `CLK` low, whatever the levels before. -/
theorem levelsAfter_cell (c d v : Bit) : levelsAfter c d (cell v) = (false, v) := rfl

theorem levelsAfter_pulseOps (c d : Bit) : levelsAfter c d pulseOps = (false, d) := rfl

end Sys2Proof.Machine
end

