-- ==== Sys2Proof/Laws/PerInstr.lean ====
section
/-! SUPPORT. Which instructions have a code word: R92 per instruction. -/

namespace Sys2Proof.Laws.EncodedByLayer

/-- A command has a command word, a wire item a word or the sampled bits of the wire, a host-layer operation none (R92);
and the layer of an instruction is that of the opcode table. -/
def Statement (i : Instr) : Prop :=
  (∃ w, encode i = some (.command w)) ∧ i.layer = .block ∨
  (∃ w, encode i = some (.wire w)) ∧ i.layer = .wire ∨
  (∃ w, encode i = some (.latch w)) ∧ i.layer = .wire ∨
  encode i = none ∧ i.layer = .host

theorem wrpix (idx : Fin 8) (r g b : Byte) (lvl : Level) : Statement (Instr.wrpix idx r g b lvl) :=
  .inl ⟨⟨_, rfl⟩, rfl⟩

theorem clrpix (idx : Fin 8) : Statement (Instr.clrpix idx) :=
  .inl ⟨⟨_, rfl⟩, rfl⟩

theorem clrall : Statement (Instr.clrall) :=
  .inl ⟨⟨_, rfl⟩, rfl⟩

theorem fill (r g b : Byte) (lvl : Level) : Statement (Instr.fill r g b lvl) :=
  .inl ⟨⟨_, rfl⟩, rfl⟩

theorem rdpix (idx : Fin 8) : Statement (Instr.rdpix idx) :=
  .inl ⟨⟨_, rfl⟩, rfl⟩

theorem tx : Statement (Instr.tx) :=
  .inl ⟨⟨_, rfl⟩, rfl⟩

theorem preamble : Statement (Instr.preamble) :=
  .inr (.inl ⟨⟨_, rfl⟩, rfl⟩)

theorem pixelPacket (r g b : Byte) (lvl : Level) : Statement (Instr.pixelPacket r g b lvl) :=
  .inr (.inl ⟨⟨_, rfl⟩, rfl⟩)

theorem latch : Statement (Instr.latch) :=
  .inr (.inr (.inl ⟨⟨_, rfl⟩, rfl⟩))

theorem setPixelRgbBrightness (index red green blue : Int) (brightness : Rat) : Statement (Instr.setPixelRgbBrightness index red green blue brightness) :=
  .inr (.inr (.inr ⟨rfl, rfl⟩))

theorem setPixelRgb (index red green blue : Int) : Statement (Instr.setPixelRgb index red green blue) :=
  .inr (.inr (.inr ⟨rfl, rfl⟩))

theorem setPixelColourBrightness (index : Int) (colour : Colour) (brightness : Rat) : Statement (Instr.setPixelColourBrightness index colour brightness) :=
  .inr (.inr (.inr ⟨rfl, rfl⟩))

theorem setPixelColour (index : Int) (colour : Colour) : Statement (Instr.setPixelColour index colour) :=
  .inr (.inr (.inr ⟨rfl, rfl⟩))

theorem clearPixel (index : Int) : Statement (Instr.clearPixel index) :=
  .inr (.inr (.inr ⟨rfl, rfl⟩))

theorem getPixel (index : Int) : Statement (Instr.getPixel index) :=
  .inr (.inr (.inr ⟨rfl, rfl⟩))

theorem clearAll : Statement (Instr.clearAll) :=
  .inr (.inr (.inr ⟨rfl, rfl⟩))

theorem setAll (red green blue : Int) (brightness : Rat) : Statement (Instr.setAll red green blue brightness) :=
  .inr (.inr (.inr ⟨rfl, rfl⟩))

theorem setGradient (startColor endColor : Colour) (startBrightness endBrightness : Rat) : Statement (Instr.setGradient startColor endColor startBrightness endBrightness) :=
  .inr (.inr (.inr ⟨rfl, rfl⟩))

theorem setGradientOneBrightness (startColor endColor : Colour) (brightness : Rat) : Statement (Instr.setGradientOneBrightness startColor endColor brightness) :=
  .inr (.inr (.inr ⟨rfl, rfl⟩))

theorem setGradientOneColour (colour : Colour) (startBrightness endBrightness : Rat) : Statement (Instr.setGradientOneColour colour startBrightness endBrightness) :=
  .inr (.inr (.inr ⟨rfl, rfl⟩))

theorem setGradientFlat (colour : Colour) (brightness : Rat) : Statement (Instr.setGradientFlat colour brightness) :=
  .inr (.inr (.inr ⟨rfl, rfl⟩))

theorem setAllPixelsList (colours : List Colour) (brightnesses : List Rat) : Statement (Instr.setAllPixelsList colours brightnesses) :=
  .inr (.inr (.inr ⟨rfl, rfl⟩))

theorem setAllPixelsScalar (colours : List Colour) (brightness : Rat) : Statement (Instr.setAllPixelsScalar colours brightness) :=
  .inr (.inr (.inr ⟨rfl, rfl⟩))

theorem setDefaultBrightness (value : Rat) : Statement (Instr.setDefaultBrightness value) :=
  .inr (.inr (.inr ⟨rfl, rfl⟩))

theorem getDefaultBrightness : Statement (Instr.getDefaultBrightness) :=
  .inr (.inr (.inr ⟨rfl, rfl⟩))

theorem reset : Statement (Instr.reset) :=
  .inr (.inr (.inr ⟨rfl, rfl⟩))

theorem transmit : Statement (Instr.transmit) :=
  .inr (.inr (.inr ⟨rfl, rfl⟩))

end Sys2Proof.Laws.EncodedByLayer
end

