-- ==== Sys2Proof/Laws/Transmit.lean ====
section
/-! SUPPORT. What a list of line operations does: all performed, the last of the frame among them, or one failed. -/

namespace Sys2Proof.Machine

/-! ## Lists of line operations -/

@[simp] theorem wordOps_length (W : Word32) : (wordOps W).length = 96 := rfl

@[simp] theorem byteOps_length (B : Byte) : (byteOps B).length = 24 := rfl

@[simp] theorem latchOps_length : latchOps.length = 73 := rfl

/-- The frame as nine words and the latch. -/
theorem frameOps_words (pix : Vector Pixel 8) :
    frameOps pix = (0#32 :: allIdx.map fun i => packetWord pix[i]).flatMap wordOps ++ latchOps := by
  simp [frameOps, List.flatMap_map]

/-- A word by the number of its line operation. -/
theorem wordOps_getElem? (W : Word32) (n : Nat) (h : n < 96) :
    (wordOps W)[n]? = some (if n % 3 = 0 then ⟨.dat, W.getLsbD (31 - n / 3)⟩
      else if n % 3 = 1 then ⟨.clk, true⟩ else ⟨.clk, false⟩) := by
  have : wordOps W = (List.range 32).flatMap fun q => cell (W.getLsbD (31 - q)) := by
    simp [wordOps, wordBytes, byteOps, byteBits, cell, List.range_succ]
  rw [this]
  interval_cases n <;> rfl

/-- Line operation n of a row of words is line operation `n % 96` of word `n / 96`. -/
theorem words_getElem? (ws : List Word32) (n : Nat) (h : n < 96 * ws.length) :
    (ws.flatMap wordOps)[n]? = (ws[n / 96]?).bind fun w => (wordOps w)[n % 96]? := by
  induction ws generalizing n with
  | nil => simp at h
  | cons w ws ih =>
    rw [List.flatMap_cons]
    by_cases hn : n < 96
    · rw [List.getElem?_append_left (by rw [wordOps_length]; exact hn)]
      simp [Nat.div_eq_of_lt hn, Nat.mod_eq_of_lt hn]
    · have h1 : n / 96 = (n - 96) / 96 + 1 := by omega
      have h2 : n % 96 = (n - 96) % 96 := by omega
      rw [List.getElem?_append_right (by rw [wordOps_length]; omega), wordOps_length,
        ih _ (by simp at h; omega), h1, List.getElem?_cons_succ, h2]

/-- Pulses leave `CLK` low and `DAT` as it is. -/
theorem levelsAfter_pulses (n : Nat) (c d : Bit) :
    levelsAfter c d (rep n pulseOps) = (if n = 0 then c else false, d) := by
  induction n generalizing c d with
  | zero => rfl
  | succ n ih =>
    rw [rep, List.replicate_succ, List.flatten_cons, levelsAfter_append, ← rep, ih]
    simp [levelsAfter_pulseOps]

/-! ## A list of line operations that are all performed -/

theorem emit_performed (ops : List LineOp) (s : State) (h : s.allPerformed ops.length) :
    (emit ops s).done = true ∧ (emit ops s).state.trace = s.trace ++ ops ∧
    ((emit ops s).state.clk, (emit ops s).state.dat) = levelsAfter s.clk s.dat ops ∧
    (emit ops s).state.nops = s.nops + ops.length ∧ (emit ops s).state.io = s.io.drop ops.length ∧
    (emit ops s).state.defb = s.defb ∧ (emit ops s).state.requests = s.requests ∧
    (emit ops s).state.rst = s.rst ∧
    ∀ n : Fin 937, s.seq = some n → ∀ h : n.val + ops.length < 937,
      (emit ops s).state.seq = some ⟨_, h⟩ ∧ (emit ops s).state.rsp = s.rsp ∧
      (emit ops s).state.ret = s.ret ∧ (emit ops s).state.hostTx = s.hostTx := by
  induction ops generalizing s with
  | nil => simp [emit, levelsAfter]
  | cons op ops ih =>
    have h0 := h 0 (by simp)
    have e := lineSet_performed (op := op) h0
    have hf := lineSet_frame op s
    rw [emit_cons, andThen_done (by rw [e])]
    obtain ⟨a, b, c, d, f, g1, g2, g3, k⟩ := ih (lineSet op s).state
      (fun j hj => by rw [lineSet_answerAt]; exact h _ (by simp; omega))
    refine ⟨a, ?_, ?_, ?_, ?_, g1.trans hf.2.1, g2.trans hf.2.2.1, g3.trans hf.2.2.2.1, ?_⟩
    · rw [b, (lineSet_trace op s).2, if_pos h0]; simp
    · rw [c]; obtain ⟨l, v⟩ := op; rw [e]; cases l <;> simp [levelsAfter]
    · rw [d, hf.2.2.2.2.1]; simp; omega
    · rw [f, hf.2.2.2.2.2]; simp
    · intro n hn hlt
      simp at hlt
      have e2 := advanceSeq_of_lt (s := { (s.countOp.drive op) with trace := s.trace ++ [op] }) (n := n)
        (by simp [hn]) (by omega)
      obtain ⟨k1, k2, k3, k4⟩ := k ⟨n.val + 1, by omega⟩ (by rw [e, e2]) (by simp; omega)
      refine ⟨by rw [k1]; simp; omega, ?_, ?_, ?_⟩
      · rw [k2, e, e2]; simp
      · rw [k3, e, e2]; simp
      · rw [k4, e, e2]; simp

/-- The answer to the operation after a performed list. -/
theorem emit_answerAt (ops : List LineOp) (s : State) (h : s.allPerformed ops.length) :
    (emit ops s).state.answerAt 0 = s.answerAt ops.length := by
  obtain ⟨-, -, -, d, f, -⟩ := emit_performed ops s h
  unfold State.answerAt
  rw [f, d]; simp

/-- A performed list that reaches the end of the frame completes the `TX`. -/
theorem emit_completes (ops : List LineOp) (s : State) (n : Fin 937) (hn : s.seq = some n)
    (hl : n.val + ops.length = 937) (h : s.allPerformed ops.length) :
    (emit ops s).state = completeTx .ok { s with
      clk := (levelsAfter s.clk s.dat ops).1, dat := (levelsAfter s.clk s.dat ops).2, trace := s.trace ++ ops
      nops := s.nops + ops.length, io := s.io.drop ops.length } := by
  have hne : ops ≠ [] := by rintro rfl; simp at hl; omega
  obtain ⟨ini, last, rfl⟩ := List.eq_nil_or_concat ops |>.resolve_left hne
  simp at hl
  have hini : s.allPerformed ini.length := fun j hj => h j (by simp; omega)
  obtain ⟨a, b, c, d, f, g1, g2, g3, k⟩ := emit_performed ini s hini
  obtain ⟨k1, k2, k3, k4⟩ := k n hn (by omega)
  have hp := emit_pix ini s
  have e := lineSet_performed (op := last) ((emit_answerAt ini s hini).trans (h ini.length (by simp)))
  rw [List.concat_eq_append, emit_append, andThen_done a, emit_cons, andThen_done (by rw [e]), e]
  show advanceSeq _ = _
  rw [advanceSeq_of_last (n := ⟨n.val + ini.length, by omega⟩) (by simp [k1]) (by simp; omega)]
  cases hE : (emit ini s).state
  simp only [hE] at *
  subst b d f g1 g2 g3 k1 k2 k3 k4 hp
  obtain ⟨l, v⟩ := last
  have c1 := congrArg Prod.fst c
  have c2 := congrArg Prod.snd c
  simp only at c1 c2
  subst c1 c2
  cases l <;> simp [State.drive, State.countOp, completeTx, levelsAfter_append, levelsAfter, Nat.add_assoc]

/-! ## A list with a failed operation -/

/-- The list stops at its first failed operation, with the response `IoFailure`. -/
theorem emit_failed (ops : List LineOp) (op : LineOp) (s : State) (f : Nat) (took : Bit) (n : Fin 937)
    (hn : s.seq = some n) (hl : n.val + f < 937) (h : s.firstFailure f took) (ho : ops[f]? = some op) :
    let before := levelsAfter s.clk s.dat (ops.take f)
    let after := if took = true then levelsAfter before.1 before.2 [op] else before
    emit ops s = ⟨completeTx .ioFailure { s with
      clk := after.1, dat := after.2, trace := s.trace ++ ops.take f, nops := s.nops + f + 1
      io := s.io.drop (f + 1) }, false⟩ := by
  intro before after
  obtain ⟨hf, he⟩ := List.getElem?_eq_some_iff.mp ho
  have hsplit : ops = ops.take f ++ op :: ops.drop (f + 1) := by rw [← he]; simp
  have hlen : (ops.take f).length = f := by simp; omega
  have hperf : s.allPerformed (ops.take f).length := by rw [hlen]; exact h.1
  obtain ⟨a, b, c, d, e, g1, g2, g3, k⟩ := emit_performed (ops.take f) s hperf
  obtain ⟨k1, k2, k3, k4⟩ := k n hn (by rw [hlen]; exact hl)
  have hp := emit_pix (ops.take f) s
  have han : (emit (ops.take f) s).state.answerAt 0 = .failed took := by
    rw [emit_answerAt _ s hperf, hlen]; exact h.2
  have e' := lineSet_failed (op := op) han
  conv_lhs => rw [hsplit]
  rw [emit_append, andThen_done a, emit_cons, andThen_stopped (by rw [e']), e']
  congr 1
  rw [hlen] at *
  cases hE : (emit (ops.take f) s).state
  simp only [hE] at *
  subst b d e g1 g2 g3 k2 k3 k4 hp
  have c1 := congrArg Prod.fst c
  have c2 := congrArg Prod.snd c
  simp only at c1 c2
  subst c1 c2
  obtain ⟨l, v⟩ := op
  cases took <;> cases l <;> simp [State.drive, State.countOp, completeTx, after, before, levelsAfter]

/-! ## The reset input plays no part in a line operation -/

theorem lineSet_rst (op : LineOp) (s : State) (r : List Bit) :
    lineSet op { s with rst := r } = ⟨{ (lineSet op s).state with rst := r }, (lineSet op s).done⟩ := by
  have ha : ({ s with rst := r } : State).answerAt 0 = s.answerAt 0 := rfl
  obtain ⟨l, v⟩ := op
  cases h : s.answerAt 0 with
  | performed =>
    rw [lineSet_performed h, lineSet_performed (ha.trans h)]
    cases l <;> simp only [advanceSeq, State.drive, State.countOp] <;> split <;> (try split) <;> rfl
  | failed took =>
    rw [lineSet_failed h, lineSet_failed (ha.trans h)]
    cases l <;> cases took <;> rfl

theorem emit_rst (ops : List LineOp) (s : State) (r : List Bit) :
    emit ops { s with rst := r } = ⟨{ (emit ops s).state with rst := r }, (emit ops s).done⟩ := by
  induction ops generalizing s r with
  | nil => rfl
  | cons op ops ih =>
    have := lineSet_rst op s r
    rw [emit_cons, emit_cons]
    cases h : (lineSet op s).done
    · rw [andThen_stopped (by rw [this]; exact h), andThen_stopped h, this]
    · rw [andThen_done (by rw [this]; exact h), andThen_done h, this, ih]

end Sys2Proof.Machine
end

