-- ==== Sys2Proof/Laws/Step.lean ====
section
/-! SUPPORT. The cases of a step, and runs of steps. -/

namespace Sys2Proof.Machine

/-- A step with `rst` high. -/
theorem step_of_rst {s : State} (hr : s.rstLevel = true) : step s = .next (hardReset s.popRst) := by
  simp [step, hr]

/-- A step of a running frame. -/
theorem step_of_busy {s : State} {n : Fin 937} (h : s.seq = some n) (hr : s.rstLevel = false) :
    step s = .next (lineStep n s.popRst) := by
  simp only [step, hr, Bool.false_eq_true, if_false, runStep, popRst_seq, h]

/-- A step of the idle block with a request at hand. -/
theorem step_of_request {s : State} {q : Request} {rest : List Request} (h : s.seq = none)
    (hr : s.rstLevel = false) (hq : s.requests = q :: rest) :
    step s = serve q { s with requests := rest, rst := s.rst.tail } := by
  simp only [step, hr, Bool.false_eq_true, if_false, runStep, popRst_seq, h, idleStep, popRst_requests, hq]
  rfl

/-- A step of the idle block with nothing to do. -/
theorem step_of_waiting {s : State} (h : s.seq = none) (hr : s.rstLevel = false) (hq : s.requests = []) :
    step s = .next s.popRst := by
  simp only [step, hr, Bool.false_eq_true, if_false, runStep, popRst_seq, h, idleStep, popRst_requests, hq]

/-- `issue` is `exec` for every instruction that completes in its own step. -/
theorem issue_of_short {i : Instr} (h1 : i ≠ .tx) (h2 : i ≠ .transmit) (s : State) : issue i s = exec i s := by
  cases i <;> first | rfl | exact absurd rfl h1 | exact absurd rfl h2

/-- What a request that is an instruction is. -/
theorem requestInstr_word {w : CmdWord} {i : Instr} (h : decodeCommand w = .ok i) :
    requestInstr (.word w) = some i := by simp [requestInstr, h, Except.toOption]

theorem requestInstr_illegal {w : CmdWord} {e : DecodeError} (h : decodeCommand w = .error e) :
    requestInstr (.word w) = none := by simp [requestInstr, h, Except.toOption]

/-- One step and then k more. -/
theorem run_succ {k : Nat} {s t : State} (h : step s = .next t) : run (k + 1) s = run k t := by
  have gen : ∀ (M : Host.Core) (s t : M.State), M.step s = .next t → M.run (k + 1) s = M.run k t := by
    intro M s t h; rw [Host.Core.run, h]
  exact gen core s t h

/-- `rst` is low at the first of some quiet steps, and stays quiet after it. -/
theorem rstLevel_of_quiet {s : State} {k : Nat} (h : s.rstQuiet (k + 1)) : s.rstLevel = false := by
  unfold State.rstLevel
  cases hr : s.rst with
  | nil => rfl
  | cons b l => exact h b (by simp [hr])

theorem rstQuiet_tail {s t : State} {k : Nat} (h : s.rstQuiet (k + 1)) (ht : t.rst = s.rst.tail) :
    t.rstQuiet k := by
  intro b hb
  rw [ht] at hb
  cases hr : s.rst with
  | nil => simp [hr] at hb
  | cons c l => exact h b (by simp [hr] at hb ⊢; exact .inr hb)

end Sys2Proof.Machine
end

