-- ==== Sys2Proof/Tests/Slice0.lean ====
section
/-! SUPPORT. Checks of the model against spec/95_test_vectors.md (V<n>) and the tables of spec/, and a witness for the
hypotheses of every statement that has some. -/

namespace Sys2Proof.Tests

open Sys2Proof Sys2Proof.Machine

/-! ## Helpers -/

/-- The start state of the vectors: after reset, `LINE_INIT` = (0, 0), these answers to come. -/
def start (io : List IoAnswer) : State := { State.reset with clk := false, dat := false, io := io }

/-- A frame under way at line operation `n`, these answers to come. -/
def sending (n : Fin 937) (io : List IoAnswer) : State := { start io with seq := some n }

/-- `k` performed line operations to come. -/
def good (k : Nat) : List IoAnswer := List.replicate k .performed

def after (o : Host.Outcome State Fault Refusal) : State :=
  match o with
  | .next t => t
  | .fault _ => State.reset
  | .refused _ => State.reset

/-- The packets of the eight pixels. -/
def packets (s : State) : List Word32 := s.pix.toList.map packetWord

/-- V26: pixel 3 is (10, 20, 30, 7), the others are zero. -/
def v26 : State := after (exec (.wrpix 3 10 20 30 7) (start []))

def grey (v : Int) : Colour := ⟨v, v, v⟩

/-! ## WellFormed refuses an ill-formed term of each kind (R211, R212) -/

theorem test_wf_index : (Instr.setPixelRgbBrightness 8 0 0 0 0).wf = false ∧ (Instr.clearPixel (-1)).wf = false ∧
    (Instr.getPixel 8).wf = false ∧ (Instr.setPixelColour (-1) (grey 0)).wf = false := by decide +kernel

theorem test_wf_channel : (Instr.setPixelRgb 0 256 0 0).wf = false ∧ (Instr.setPixelRgb 0 0 (-1) 0).wf = false ∧
    (Instr.setAll 0 0 256 0).wf = false ∧ (Instr.setGradientFlat (grey 256) 0).wf = false := by decide +kernel

theorem test_wf_brightness : (Instr.setPixelColourBrightness 0 (grey 0) (101 / 100)).wf = false ∧
    (Instr.setDefaultBrightness (-1 / 100)).wf = false ∧ (Instr.setGradient (grey 0) (grey 0) 0 2).wf = false ∧
    (Instr.setGradientOneBrightness (grey 0) (grey 0) 2).wf = false ∧
    (Instr.setGradientOneColour (grey 0) 2 0).wf = false := by decide +kernel

theorem test_wf_length : (Instr.setAllPixelsScalar (List.replicate 7 (grey 0)) 1).wf = false ∧
    (Instr.setAllPixelsList (List.replicate 8 (grey 0)) (List.replicate 9 1)).wf = false := by decide +kernel

theorem test_wf_elements : (Instr.setAllPixelsScalar (List.replicate 7 (grey 0) ++ [grey 256]) 1).wf = false ∧
    (Instr.setAllPixelsList (List.replicate 8 (grey 0)) (List.replicate 7 1 ++ [2])).wf = false := by decide +kernel

/-- The bounds are inclusive (R171). -/
theorem test_wf_bounds : (Instr.setPixelRgbBrightness 7 255 255 255 1).wf = true ∧
    (Instr.setPixelRgbBrightness 0 0 0 0 0).wf = true ∧ (Instr.setDefaultBrightness 1).wf = true := by decide +kernel

/-! ## Decoding (V10, V11, R71 to R73) -/

theorem test_decode_wrpix : decodeCommand 0x01671E140A#40 = .ok (.wrpix 3 10 20 30 7) := by decide

theorem test_decode_wrpix_ones : decodeCommand 0x01FFFFFFFF#40 = .ok (.wrpix 7 255 255 255 31) := by decide

theorem test_decode_clrpix : decodeCommand 0x0260000000#40 = .ok (.clrpix 3) := by decide

theorem test_decode_clrall : decodeCommand 0x0300000000#40 = .ok .clrall := by decide

theorem test_decode_fill : decodeCommand 0x040F1E140A#40 = .ok (.fill 10 20 30 15) := by decide

theorem test_decode_rdpix : decodeCommand 0x05E0000000#40 = .ok (.rdpix 7) := by decide

theorem test_decode_tx : decodeCommand 0x0600000000#40 = .ok .tx := by decide

theorem test_decode_preamble : decodeWire 0x00000000#32 = .ok .preamble := by decide

theorem test_decode_packet : decodeWire 0xF0030201#32 = .ok (.pixelPacket 1 2 3 16) := by decide

theorem test_decode_latch : decodeLatch 0#36 = .ok .latch := by decide

/-- V12: each of these words is illegal. -/
theorem test_decode_illegal :
    [0x0000000000#40, 0xFFFFFFFFFF#40, 0x0700000000#40, 0x8100000000#40, 0x0260000001#40, 0x0300000001#40,
      0x0320000000#40, 0x043FFFFFFF#40, 0x0570000000#40, 0x0600000100#40, 0x0680000000#40].all
      (fun w => (decodeCommand w).toOption.isNone) = true := by decide

/-- A wire word that is neither item (R77). -/
theorem test_decode_no_item : (decodeWire 0x60000000#32).toOption = none := by decide

/-- V10: the encoder's words. -/
theorem test_encode_words : encode (.fill 255 255 255 31) = some (.command 0x041FFFFFFF#40) ∧
    encode (.wrpix 0 255 0 0 15) = some (.command 0x010F0000FF#40) ∧
    encode (.clrpix 7) = some (.command 0x02E0000000#40) := by decide

/-- The table gives the latch 36 bits, the host asks for whole bytes. -/
theorem test_table_words : decodeTableWord 40 0 = some .latch ∧ decodeTableWord 32 0 = some .preamble ∧
    decodeTableWord 32 0xE71E140A = some (.pixelPacket 10 20 30 7) ∧ decodeTableWord 40 0x0700000000 = none := by
  decide

/-! ## The commands of the block (V16 to V18) -/

theorem test_wrpix : v26.pix[3] = ⟨10, 20, 30, 7⟩ ∧ v26.pix[2] = ⟨0, 0, 0, 0⟩ ∧ v26.rsp = some 0x00000000#32 := by
  decide

theorem test_wrpix_replaces : (after (exec (.wrpix 3 1 2 3 0) v26)).pix[3] = ⟨1, 2, 3, 0⟩ := by decide

theorem test_rdpix : (after (exec (.rdpix 3) v26)).rsp = some 0x071E140A#32 ∧
    (after (exec (.rdpix 2) v26)).rsp = some 0x00000000#32 := by decide

theorem test_fill : (after (exec (.rdpix 6) (after (exec (.fill 255 255 255 31) v26)))).rsp = some 0x1FFFFFFF#32 := by
  decide

theorem test_clrpix : let s := after (exec (.clrpix 3) (after (exec (.fill 255 255 255 31) v26)))
    s.pix[3] = ⟨0, 0, 0, 0⟩ ∧ s.pix[4] = ⟨255, 255, 255, 31⟩ := by decide

theorem test_clrall : (after (exec .clrall v26)).pix[3] = ⟨0, 0, 0, 0⟩ := by decide

/-! ## The sequencer (V20 to V26, V38) -/

theorem test_packetWord : packetWord ⟨255, 0, 0, 31⟩ = 0xFF0000FF#32 ∧ packetWord ⟨0, 0, 255, 1⟩ = 0xE1FF0000#32 := by
  decide

/-- V23: from `CLK` = 1 a pulse has no rising edge. -/
theorem test_pulse : rx false true pulseOps = [true] ∧ rx true true pulseOps = [] ∧
    (pulse (sending 865 (good 2))).state.trace = [⟨.clk, true⟩, ⟨.clk, false⟩] := by decide

/-- V24: the `DAT` operation is performed also where `DAT` has the level. -/
theorem test_emitBit : let s := (emitBit true { sending 0 (good 3) with dat := true }).state
    s.trace = [⟨.dat, true⟩, ⟨.clk, true⟩, ⟨.clk, false⟩] ∧ s.clk = false ∧ s.dat = true ∧ s.seq = some 3 := by decide

/-- V25: most significant bit first. -/
theorem test_emitByte : rx false false (byteOps 0xE7) = [true, true, true, false, false, true, true, true] ∧
    rx false false (byteOps 0x01) = [false, false, false, false, false, false, false, true] := by decide

/-- V26: chosen line operations of the frame. -/
theorem test_frameOp :
    [0, 1, 95, 96, 102, 105, 384, 393, 396, 399, 479, 480, 863, 864, 865, 936].map (frameOp v26.pix) =
      [⟨.dat, false⟩, ⟨.clk, true⟩, ⟨.clk, false⟩, ⟨.dat, true⟩, ⟨.dat, true⟩, ⟨.dat, false⟩, ⟨.dat, true⟩,
        ⟨.dat, false⟩, ⟨.dat, false⟩, ⟨.dat, true⟩, ⟨.clk, false⟩, ⟨.dat, true⟩, ⟨.clk, false⟩, ⟨.dat, false⟩,
        ⟨.clk, true⟩, ⟨.clk, false⟩] := by decide

/-- V38, f = 1 with the line taking the level: the lines, the trace, the count and the response. -/
theorem test_tx_failure : let s := after (exec .tx { v26 with io := [.performed, .failed true] })
    s.clk = true ∧ s.dat = false ∧ s.trace = [⟨.dat, false⟩] ∧ s.nops = 2 ∧ s.seq = none ∧
      s.rsp = some 0x60000000#32 ∧ s.pix[3] = ⟨10, 20, 30, 7⟩ := by decide

/-- V38, f = 2 with the line keeping its level, by `transmit()`: its caller gets the error. -/
theorem test_transmit_failure : let s := after (exec .transmit { v26 with io := good 2 ++ [.failed false] })
    s.clk = true ∧ s.nops = 3 ∧ s.rsp = some 0x60000000#32 ∧ s.ret = some (.raised .ioFailure) := by decide

/-- The last operation of the latch ends the frame (R131). -/
theorem test_last_operation : let s := after (step { sending 936 [.performed] with clk := true })
    s.clk = false ∧ s.seq = none ∧ s.rsp = some 0x00000000#32 ∧ s.nops = 1 := by decide

/-- V38, f = 936 with the line keeping its level: `CLK` stays high. -/
theorem test_last_operation_failed : let s := after (step { sending 936 [.failed false] with clk := true })
    s.clk = true ∧ s.seq = none ∧ s.rsp = some 0x60000000#32 ∧ s.trace = [] := by decide

theorem test_preamble : let s := after (exec .preamble (sending 0 [.performed, .failed false]))
    s.trace = [⟨.dat, false⟩] ∧ s.seq = none := by decide

theorem test_packet : let s := after (exec (.pixelPacket 10 20 30 7) (sending 96 [.performed, .failed false]))
    s.trace = [⟨.dat, true⟩] ∧ s.dat = true := by decide

theorem test_latch : let s := after (exec .latch (sending 864 (good 2 ++ [.failed false])))
    s.trace = [⟨.dat, false⟩, ⟨.clk, true⟩] ∧ s.clk = true := by decide

/-! ## Brightness and gradients (V1 to V9, V30 to V36) -/

theorem test_quantise : [0, 1, 1 / 2, 1 / 4, 999 / 1000, 3 / 100, 1 / 31, 322 / 10000, 323 / 10000, 31 / 32].map quantise =
    [0, 31, 15, 7, 30, 0, 1, 0, 1, 30] := by decide +kernel

theorem test_setGradient : packets (after (exec (.setGradient (grey 0) (grey 255) 0 1) (start []))) =
    [0xE0000000, 0xE4242424, 0xE8484848, 0xED6D6D6D, 0xF1919191, 0xF6B6B6B6, 0xFADADADA, 0xFFFFFFFF] := by
  decide +kernel

/-- V31: descending channels are floors of the exact value. -/
theorem test_setGradient_descending :
    packets (after (exec (.setGradient ⟨255, 128, 0⟩ ⟨0, 64, 255⟩ 1 (1 / 2)) (start []))) =
    [0xFF0080FF, 0xFC2476DA, 0xFA486DB6, 0xF86D6491, 0xF6915B6D, 0xF3B65248, 0xF1DA4924, 0xEFFF4000] := by
  decide +kernel

theorem test_setGradientOneBrightness :
    packets (after (exec (.setGradientOneBrightness (grey 0) (grey 7) (1 / 2)) (start []))) =
    [0xEF000000, 0xEF010101, 0xEF020202, 0xEF030303, 0xEF040404, 0xEF050505, 0xEF060606, 0xEF070707] := by
  decide +kernel

/-- V35 -/
theorem test_setGradientOneColour : packets (after (exec (.setGradientOneColour ⟨255, 0, 0⟩ 0 1) (start []))) =
    [0xE00000FF, 0xE40000FF, 0xE80000FF, 0xED0000FF, 0xF10000FF, 0xF60000FF, 0xFA0000FF, 0xFF0000FF] := by
  decide +kernel

/-- V32 -/
theorem test_setGradientFlat : packets (after (exec (.setGradientFlat ⟨10, 20, 30⟩ (1 / 2)) (start []))) =
    List.replicate 8 0xEF1E140A := by decide +kernel

/-- The eight colours of V36. -/
def v36 : List Colour := [⟨255, 0, 0⟩, ⟨0, 255, 0⟩, ⟨0, 0, 255⟩, ⟨255, 255, 0⟩, ⟨0, 255, 255⟩, ⟨255, 0, 255⟩,
  ⟨255, 255, 255⟩, ⟨1, 2, 3⟩]

theorem test_setAllPixelsList :
    packets (after (exec (.setAllPixelsList v36 [0, 1 / 7, 2 / 7, 3 / 7, 4 / 7, 5 / 7, 6 / 7, 1]) (start []))) =
    [0xE00000FF, 0xE400FF00, 0xE8FF0000, 0xED00FFFF, 0xF1FFFF00, 0xF6FF00FF, 0xFAFFFFFF, 0xFF030201] := by
  decide +kernel

theorem test_setAllPixelsScalar : packets (after (exec (.setAllPixelsScalar v36 (1 / 2)) (start []))) =
    [0xEF0000FF, 0xEF00FF00, 0xEFFF0000, 0xEF00FFFF, 0xEFFFFF00, 0xEFFF00FF, 0xEFFFFFFF, 0xEF030201] := by
  decide +kernel

/-! ## The other host-layer operations (V37, V39, P2) -/

theorem test_setPixelRgbBrightness :
    (after (exec (.setPixelRgbBrightness 3 10 20 30 (1 / 4)) (start []))).pix[3] = ⟨10, 20, 30, 7⟩ := by decide +kernel

theorem test_setPixelColourBrightness :
    (after (exec (.setPixelColourBrightness 3 ⟨10, 20, 30⟩ (1 / 4)) (start []))).pix[3] = ⟨10, 20, 30, 7⟩ := by
  decide +kernel

/-- V39: the default brightness at the moment of the call. -/
theorem test_setPixelRgb : (after (exec (.setPixelRgb 0 255 0 0) (start []))).pix[0] = ⟨255, 0, 0, 31⟩ ∧
    (after (exec (.setPixelRgb 1 255 0 0) { start [] with defb := 1 / 2 })).pix[1] = ⟨255, 0, 0, 15⟩ := by
  decide +kernel

theorem test_setPixelColour : (after (exec (.setPixelColour 1 ⟨255, 0, 0⟩) { start [] with defb := 1 / 2 })).pix[1] =
    ⟨255, 0, 0, 15⟩ := by decide +kernel

theorem test_clearPixel : (after (exec (.clearPixel 3) v26)).pix[3] = ⟨0, 0, 0, 0⟩ := by decide +kernel

/-- P2, step 2. -/
theorem test_getPixel : (after (exec (.getPixel 3) v26)).ret = some (.pixel 10 20 30 7 (7 / 31)) := by decide +kernel

theorem test_clearAll : (after (exec .clearAll { v26 with defb := 1 / 2 })).pix[3] = ⟨0, 0, 0, 0⟩ ∧
    (after (exec .clearAll { v26 with defb := 1 / 2 })).defb = 1 / 2 := by decide +kernel

theorem test_setAll : (after (exec (.setAll 10 20 30 (1 / 2)) (start []))).pix[5] = ⟨10, 20, 30, 15⟩ := by
  decide +kernel

theorem test_setDefaultBrightness : (after (exec (.setDefaultBrightness (1 / 2)) v26)).defb = 1 / 2 ∧
    (after (exec (.setDefaultBrightness (3 / 2)) v26)).ret = some (.raised .outOfRange) := by decide +kernel

theorem test_getDefaultBrightness :
    (after (exec .getDefaultBrightness { v26 with defb := 1 / 2 })).ret = some (.brightness (1 / 2)) := by
  decide +kernel

theorem test_reset : (after (exec .reset { v26 with defb := 1 / 2 })).defb = 1 ∧
    (after (exec .reset v26)).pix[3] = ⟨0, 0, 0, 0⟩ := by decide +kernel

/-- V37: two faults, one error; the lengths before the elements; nothing written before element 7 is checked. -/
theorem test_errors :
    (after (exec (.setPixelRgb 8 0 0 300) v26)).ret = some (.raised .outOfRange) ∧
    (after (exec (.setAllPixelsScalar (List.replicate 6 (grey 0) ++ [⟨256, 0, 0⟩]) (1 / 2)) v26)).ret =
      some (.raised .lengthMismatch) ∧
    (after (exec (.setAllPixelsScalar (List.replicate 7 (grey 9) ++ [⟨0, 0, 256⟩]) (1 / 2)) v26)) =
      { v26 with ret := some (.raised .outOfRange) } := by decide +kernel

/-! ## The step and the fetch -/

/-- A waiting request is taken in order; while a frame runs it waits (R79). -/
theorem test_request_order : let s := { v26 with requests := [.word 0x0560000000#40, .word 0x0700000000#40] }
    (after (step s)).rsp = some 0x071E140A#32 ∧ (after (step (after (step s)))).rsp = some 0x80000000#32 ∧
    (after (step { s with seq := some 0, io := good 1 })).requests = s.requests := by decide

/-- V40: reset in a frame keeps the lines, and sends no response. -/
theorem test_hardware_reset : let s := after (step { v26 with seq := some 386, clk := true, dat := true, rst := [true] })
    s.clk = true ∧ s.dat = true ∧ s.seq = none ∧ s.rsp = none ∧ s.pix[3] = ⟨0, 0, 0, 0⟩ ∧ s.rst = [] := by decide

theorem test_fetch_commands :
    (after (step (State.reset.withFetchWord 40 0x01671E140A))).pix[3] = ⟨10, 20, 30, 7⟩ ∧
    (after (step (State.reset.withFetchWord 40 0x041FFFFFFF))).pix[6] = ⟨255, 255, 255, 31⟩ ∧
    (after (step (State.reset.withFetchWord 40 0x0600000000))).seq = some 0 ∧
    (after (step (State.reset.withFetchWord 40 0x0700000000))).rsp = some 0x80000000#32 := by decide

/-- The wire items run as the one the sequencer is in. -/
theorem test_fetch_items :
    (State.reset.withFetchWord 32 0).seq = some 0 ∧ (State.reset.withFetchWord 40 0).seq = some 864 ∧
    (let s := State.reset.withFetchWord 32 0xE71E140A
     itemAt s.pix 96 = .pixelPacket 10 20 30 7 ∧ s.seq = some 96) := by decide

/-! ## Witnesses -/

theorem good_performed (s : State) (k : Nat) : ({ s with io := good k } : State).allPerformed k := by
  intro j hj
  simp [State.answerAt, good, hj]

theorem good_failed (s : State) (f : Nat) (took : Bit) :
    ({ s with io := good f ++ [.failed took] } : State).firstFailure f took := by
  refine ⟨?_, by simp [State.answerAt, good]⟩
  intro j hj
  have : (good f ++ [IoAnswer.failed took])[j]? = some .performed := by
    rw [List.getElem?_append_left (by simpa [good] using hj)]; simp [good, hj]
  simp [State.answerAt, this]

theorem quiet_of_nil {s : State} (h : s.rst = []) (k : Nat) : s.rstQuiet k := by
  intro b hb
  simp [h] at hb

theorem frameOps_last (pix : Vector Pixel 8) : (frameOps pix)[936]? = some ⟨.clk, false⟩ := by
  have h : (wordOps 0 ++ allIdx.flatMap fun i => wordOps (packetWord pix[i])).length = 864 := by
    simp [allIdx]
  rw [frameOps, List.getElem?_append_right (by rw [h]; decide), h]
  rfl

theorem witness_WrpixWritesOneWholePixel : ((2 : Fin 8) ≠ 3) ∧ v26.pix[(3 : Fin 8)] = ⟨10, 20, 30, 7⟩ := by decide

theorem witness_ClrpixClearsOnePixel :
    ((0 : Fin 8) ≠ 7) ∧ v26.pix[(7 : Fin 8)] = ⟨0, 0, 0, 0⟩ ∧ (0x10000000#29 ≠ 0) := by decide

theorem witness_ClrallClearsEveryPixel : (0x20000000#32) ≠ 0 := by decide

theorem witness_FillWritesEveryPixel : (0b001#3) ≠ 0 := by decide

theorem witness_RdpixRespondsThePackedPixel : (0x10000000#29) ≠ 0 := by decide

theorem witness_PixelCommandLaws : ((7 : Fin 8) ≠ 0) ∧ ([7, 6, 5, 4, 3, 2, 1, 0] : List (Fin 8)).Perm (List.finRange 8) ∧
    ∀ c ∈ [Instr.fill 1 2 3 4, .rdpix 7, .clrall], c.pixelCommand = true := by decide

theorem witness_QuantiseIsTheExactFloor : (0 : Rat) ≤ 1 ∧ (1 : Rat) ≤ 1 ∧ (0 : Rat) ≤ 1 / 3 ∧ (1 / 3 : Rat) ≤ 1 / 2 ∧
    (1 / 2 : Rat) ≤ 1 ∧ (30 : Int) < 31 ∧ (0 : Int) ≤ 31 ∧ (31 : Int) ≤ 31 := by norm_num

theorem witness_SetPixelWithBrightness : ((0 : Rat) ≤ 1 ∧ (1 : Rat) ≤ 1) ∧
    ((8 : Int) < 0 ∨ (7 : Int) < 8 ∨ (grey 0).red < 0 ∨ 255 < (grey 0).red ∨ (grey 0).green < 0 ∨ 255 < (grey 0).green ∨
      (grey 0).blue < 0 ∨ 255 < (grey 0).blue ∨ (0 : Rat) < 0 ∨ (1 : Rat) < 0) := by
  refine ⟨by norm_num, .inr (.inl (by norm_num))⟩

theorem witness_SetPixelWithDefaultBrightness : (0 ≤ v26.defb ∧ v26.defb ≤ 1) ∧
    ((0 : Int) < 0 ∨ (7 : Int) < 0 ∨ (grey 256).red < 0 ∨ 255 < (grey 256).red ∨ (grey 256).green < 0 ∨
      255 < (grey 256).green ∨ (grey 256).blue < 0 ∨ 255 < (grey 256).blue) := by
  decide +kernel

theorem witness_ClearingOperations : (-1 : Int) < 0 ∨ (7 : Int) < -1 := by decide

theorem witness_GetPixelGivesBackTheStoredPixel : (8 : Int) < 0 ∨ (7 : Int) < 8 := by decide

theorem witness_SetAllWritesEveryPixel : ((0 : Rat) ≤ 0 ∧ (0 : Rat) ≤ 1) ∧
    ((grey 0).red < 0 ∨ 255 < (grey 0).red ∨ (grey 0).green < 0 ∨ 255 < (grey 0).green ∨ (grey 0).blue < 0 ∨
      255 < (grey 0).blue ∨ (3 / 2 : Rat) < 0 ∨ (1 : Rat) < 3 / 2) := by
  refine ⟨by norm_num, .inr (.inr (.inr (.inr (.inr (.inr (.inr (by norm_num)))))))⟩

theorem witness_LerpLaws : (1 : Nat) ≤ 7 ∧ (7 : Nat) ≤ 7 ∧ (0 : Rat) ≤ 255 := by norm_num

theorem witness_GradientWritesTheInterpolatedPixels : ((0 : Rat) ≤ 0 ∧ (0 : Rat) ≤ 1 ∧ (0 : Rat) ≤ 1 ∧ (1 : Rat) ≤ 1) ∧
    ¬ (colourOk (grey 0) = true ∧ colourOk (grey 256) = true ∧ (0 : Rat) ≤ 0 ∧ (0 : Rat) ≤ 1 ∧ (0 : Rat) ≤ 1 ∧
      (1 : Rat) ≤ 1) := by decide +kernel

theorem witness_SetAllPixelsWritesElementByElement :
    (v36.length = 8 ∧ (List.replicate 8 (1 : Rat)).length = 8 ∧ (∀ c ∈ v36, colourOk c = true) ∧
      (∀ q ∈ List.replicate 8 (1 : Rat), 0 ≤ q ∧ q ≤ 1) ∧ v36[(7 : Fin 8).val]? = some ⟨1, 2, 3⟩ ∧
      (List.replicate 8 (1 : Rat))[(7 : Fin 8).val]? = some 1) ∧
    (v36.tail.length ≠ 8 ∨ (List.replicate 8 (1 : Rat)).length ≠ 8) ∧
    ((List.replicate 8 (grey 256)).length = 8 ∧
      ((∃ c ∈ List.replicate 8 (grey 256), colourOk c = false) ∨ (2 : Rat) < 0 ∨ (1 : Rat) < 2)) ∧
    ((∃ c ∈ v36, colourOk c = false) ∨ ∃ q ∈ List.replicate 8 (2 : Rat), q < 0 ∨ 1 < q) := by decide +kernel

theorem witness_DefaultBrightnessIsStoredExactly :
    ((0 : Rat) ≤ 1 ∧ (1 : Rat) ≤ 1) ∧ ((3 / 2 : Rat) < 0 ∨ (1 : Rat) < 3 / 2) := by norm_num

theorem witness_ValidationErrorsChangeNothing : (Instr.clearPixel 8).wf = false ∧
    ((Instr.setGradient (grey 0) (grey 255) 0 1).wf = true ∧ (Instr.setGradient (grey 0) (grey 255) 0 1).layer = .host) ∧
    (Instr.transmit.wf = true ∧ Instr.transmit.layer = .host) := by decide +kernel

theorem witness_HostOperationsAreTheirExpansions :
    (Instr.setAllPixelsScalar v36 1).layer = .host ∧ (Instr.setAllPixelsScalar v36 1).wf = true ∧
      Instr.clrall ∈ lowering .reset 1 := by
  decide +kernel

theorem witness_ConformanceProperties : ((0 : Rat) ≤ 1 / 4 ∧ (1 / 4 : Rat) ≤ 1) ∧ v36.tail.length = 7 ∧
    v26.pix[(3 : Fin 8)] = ⟨10, 20, 30, 7⟩ ∧ ({ v26 with io := good 937 } : State).allPerformed 937 :=
  ⟨by norm_num, by decide, by decide, good_performed v26 937⟩

theorem witness_LineSetDrivesOneLine : (start []).io = [] ∧ (sending 936 [.performed]).answerAt 0 = .performed ∧
    (sending 936 [.performed]).seq = some 936 ∧ (sending 935 [.performed]).answerAt 0 = .performed ∧
    (sending 935 [.performed]).seq = some 935 ∧ (start [.performed]).answerAt 0 = .performed ∧
    (start [.performed]).seq = none ∧ (sending 0 [.failed true]).answerAt 0 = .failed true := by decide

theorem witness_TransmitSendsTheWholeFrame : (start (good 937)).allPerformed 937 := good_performed (start []) 937

/-- At the first line operation and at the last. -/
theorem witness_TransmitStopsAtTheFirstFailure :
    (0 < 937 ∧ ({ v26 with io := good 0 ++ [.failed true] } : State).firstFailure 0 true ∧
      (frameOps v26.pix)[0]? = some ⟨.dat, false⟩) ∧
    (936 < 937 ∧ ({ v26 with io := good 936 ++ [.failed false] } : State).firstFailure 936 false ∧
      (frameOps v26.pix)[936]? = some ⟨.clk, false⟩) :=
  ⟨⟨by decide, good_failed v26 0 true, rfl⟩, by decide, good_failed v26 936 false, frameOps_last _⟩

theorem witness_WireItemsAreSentInPlace :
    ((sending 0 (good 96)).seq = some 0 ∧ (sending 0 (good 96)).allPerformed 96) ∧
    ((sending 768 (good 96)).seq = some ⟨96 + 96 * (7 : Fin 8).val, by decide⟩ ∧ (sending 768 (good 96)).allPerformed 96) ∧
    ((sending 864 (good 73)).seq = some 864 ∧ (sending 864 (good 73)).allPerformed 73) :=
  ⟨⟨rfl, good_performed (sending 0 []) 96⟩, ⟨rfl, good_performed (sending 768 []) 96⟩, rfl,
    good_performed (sending 864 []) 73⟩

theorem witness_FrameOpsClosedForm : 863 < 937 ∧ 864 < 937 ∧ 936 < 937 := by decide

theorem witness_SampledBitByNumber : 31 < 32 ∧ 32 / 32 = (0 : Fin 8).val + 1 ∧ 287 / 32 = (7 : Fin 8).val + 1 ∧
    (288 ≤ 323 ∧ 323 < 324) ∧ 324 ≤ 324 := by decide

theorem witness_SecondFrameIsSampledWhole : ({ v26 with io := good 1874 } : State).allPerformed 1874 :=
  good_performed v26 1874

theorem witness_BusyStepIsOneLineOperation :
    ((sending 935 [.performed]).seq = some 935 ∧ (sending 935 [.performed]).rstLevel = false ∧
      (sending 935 [.performed]).answerAt 0 = .performed) ∧
    ((sending 936 [.performed]).seq = some 936 ∧ (936 : Fin 937).val = 936) ∧
    ((sending 0 [.failed true]).seq = some 0 ∧ (sending 0 [.failed true]).answerAt 0 ≠ .performed) := by decide

theorem witness_BusyStepBelongsToItsWireItem : 95 < 96 ∧ (96 + 96 * (0 : Fin 8).val ≤ 96) ∧
    (96 + 96 * (7 : Fin 8).val ≤ 863 ∧ 863 < 192 + 96 * (7 : Fin 8).val) ∧ 864 ≤ 864 ∧ 936 < 937 := by decide

theorem witness_StepRunsTheRequest :
    (v26.seq = none ∧ v26.rstLevel = false ∧ v26.requests = []) ∧
    (decode (.command 0x0560000000#40) = .ok (.rdpix 3) ∧ Instr.rdpix 3 ≠ .tx ∧ Instr.rdpix 3 ≠ .transmit) ∧
    decode (.command 0x0600000000#40) = .ok .tx ∧ Instr.transmit.layer = .host ∧
    decode (.command 0x0700000000#40) = .error (.reservedOpcode 0x07#8) := by decide

theorem witness_FineStepsReachTheCoarseTransmit :
    ({ v26 with requests := [.word 0x0600000000#40] } : State).seq = none ∧
    ({ v26 with requests := [.word 0x0600000000#40] } : State).rstQuiet 938 ∧
    ({ v26 with requests := [.call ⟨.transmit, rfl⟩] } : State).rstQuiet 938 :=
  ⟨rfl, quiet_of_nil rfl 938, quiet_of_nil rfl 938⟩

theorem witness_FineStepsReachTheWireItem :
    ((sending 0 []).seq = some 0 ∧ itemStart 0 = 0) ∧ ((sending 768 []).seq = some 768 ∧ itemStart 768 = 768) ∧
    ((sending 864 []).seq = some 864 ∧ itemStart 864 = 864) ∧ (sending 864 []).rstQuiet 96 :=
  ⟨⟨rfl, rfl⟩, ⟨rfl, rfl⟩, ⟨rfl, rfl⟩, quiet_of_nil rfl _⟩

theorem witness_EveryFrameEnds : (sending 936 []).seq = some 936 ∧ (sending 936 []).rstQuiet 937 :=
  ⟨rfl, quiet_of_nil rfl _⟩

theorem witness_LinesChangeOnlyInsideAFrame : v26.seq = none ∧ v26.rstLevel = false ∧ step v26 = .next v26.popRst :=
  ⟨rfl, rfl, rfl⟩

theorem witness_WhoWritesPixelsAndDefault :
    exec .getDefaultBrightness v26 = .next { v26 with ret := some (.brightness v26.defb) } ∧
    Instr.getDefaultBrightness.writesPixels = false ∧ (∀ q, Instr.getDefaultBrightness ≠ .setDefaultBrightness q) ∧
    Instr.getDefaultBrightness ≠ .reset := ⟨rfl, rfl, nofun, nofun⟩

theorem witness_OnlyTransmitTouchesTheWire :
    exec .clrall v26 = .next (clrallState v26) ∧ Instr.clrall.layer ≠ .wire ∧ Instr.clrall ≠ .tx ∧
    Instr.clrall ≠ .transmit := ⟨rfl, nofun, nofun, nofun⟩

/-- Idle, and in a frame. -/
theorem witness_HardwareResetStep : ({ v26 with rst := [true] } : State).rstLevel = true ∧
    ({ v26 with rst := [true] } : State).seq = none ∧
    ({ sending 386 [] with rst := [true] } : State).rstLevel = true ∧
    ({ sending 386 [] with rst := [true] } : State).seq ≠ none := by decide

theorem witness_DecodeOfEncode : encode (.clrpix 7) = some (.command 0x02E0000000#40) := by decide

theorem witness_EncodeOfDecode : decode (.wire 0xFFFFFFFF#32) = .ok (.pixelPacket 255 255 255 31) := by decide

theorem witness_OpcodeMapSelectsTheCommand :
    (0x01FFFFFFFF#40 &&& 0xFF00000000#40 = 0x0100000000#40) ∧ (0x02E0000000#40 &&& 0xFF1FFFFFFF#40 = 0x0200000000#40) ∧
    (0x0300000000#40 &&& 0xFFFFFFFFFF#40 = 0x0300000000#40) ∧ (0x041FFFFFFF#40 &&& 0xFFE0000000#40 = 0x0400000000#40) ∧
    (0x05E0000000#40 &&& 0xFF1FFFFFFF#40 = 0x0500000000#40) ∧ (0x0600000000#40 &&& 0xFFFFFFFFFF#40 = 0x0600000000#40) ∧
    (∀ row ∈ commandRows, selectsRow 0x0320000000#40 row = false) ∧
    fieldOp 0x0000000000#40 = 0x00#8 ∧ 0x07#8 ≤ fieldOp 0x0700000000#40 :=
  ⟨by decide, by decide, by decide, by decide, by decide, by decide, by simp [commandRows, selectsRow], by decide, by decide⟩

/-- A state in the middle of a frame meets the invariant, and its step is a next state. -/
theorem witness_StepKeepsTheInvariant :
    (sending 0 [.performed]).Inv ∧ step (sending 0 [.performed]) = .next (lineStep 0 (sending 0 [.performed]).popRst) := by
  refine ⟨⟨?_, nofun, fun _ => rfl, Nat.le_refl 0, ?_, nofun, nofun⟩, rfl⟩
  · constructor <;> norm_num [sending, start, State.reset]
  · intro n hn
    cases hn
    exact ⟨⟨[], rfl⟩, false, false, rfl⟩

end Sys2Proof.Tests
end

section
/-! The reset state (R38). -/

namespace Sys2Proof.Machine

/-- Every register of the all-zero pixel array, with which hardware reset, `CLRALL` and `State.reset` fill `PIX`. -/
theorem replicate_zero_getElem (i : Fin 8) : (Vector.replicate 8 Pixel.zero)[i] = ⟨0, 0, 0, 0⟩ :=
  Vector.getElem_replicate i.isLt

/-- `BUSY` is 0 where `SEQ` is `IDLE` (R29). -/
theorem busy_of_seq_none {s : State} (h : s.seq = none) : s.busy = false := by
  rw [State.busy, h, Option.isSome_none]

/-- Settles O43: the pixels are the all-zero array, `BUSY` follows from `SEQ`, and each other field is the value that
`State.reset` gives it. -/
theorem resetValues : Obligations.ResetValues :=
  ⟨replicate_zero_getElem, rfl, rfl, busy_of_seq_none rfl, rfl, rfl, rfl, rfl⟩

end Sys2Proof.Machine
end

section
/-! What a receiver samples of a frame (R151, R152), bit by bit (R56). -/

namespace Sys2Proof.Machine

@[simp] theorem wordBits_length (W : Word32) : (wordBits W).length = 32 := rfl

@[simp] theorem wordBits_zero : wordBits 0#32 = List.replicate 32 false := by decide

theorem wordBits_getElem? (W : Word32) {j : Nat} (h : j < 32) : (wordBits W)[j]? = some (W.getLsbD (31 - j)) := by
  rw [wordBits, List.getElem?_map, List.getElem?_range h, Option.map_some]

/-- The line operations of a word are the cells of its bits (R136, R145). -/
theorem wordOps_eq_cells (W : Word32) : wordOps W = (wordBits W).flatMap cell := by
  simp [wordOps, wordBytes, byteOps, byteBits, wordBits, List.range_succ]

/-- From `CLK` = 0 each cell gives exactly its own bit, and leaves `DAT` at that bit (R151). -/
theorem rx_cells (bits : List Bit) (dat : Bit) (rest : List LineOp) :
    rx false dat (bits.flatMap cell ++ rest) = bits ++ rx false (bits.getLastD dat) rest := by
  induction bits generalizing dat with
  | nil => rfl
  | cons v bits ih =>
    calc rx false dat ((v :: bits).flatMap cell ++ rest)
        = v :: rx false v (bits.flatMap cell ++ rest) := rfl
      _ = v :: bits ++ rx false ((v :: bits).getLastD dat) rest := by rw [ih, List.getLastD_cons, List.cons_append]

/-- The latch pulls `DAT` low before its pulses, so all its samples are 0 (R142). -/
theorem rx_latchOps (dat : Bit) : rx false dat latchOps = List.replicate 36 false := rfl

/-- The frame's bits as the bits of nine words and the latch's zeros. -/
theorem frameBits_words (pix : Vector Pixel 8) :
    frameBits pix =
      (0#32 :: allIdx.map fun i => packetWord pix[i]).flatMap wordBits ++ List.replicate 36 false := by
  simp [frameBits, List.flatMap_map]

/-- From `CLK` = 0 a receiver samples the frame's bits, whatever the level of `DAT` (R152). -/
theorem rx_frameOps (pix : Vector Pixel 8) (dat : Bit) : rx false dat (frameOps pix) = frameBits pix := by
  rw [frameOps_words, funext wordOps_eq_cells, ← List.flatMap_assoc, rx_cells, rx_latchOps, frameBits_words]

/-- Bit j of a row of words is bit `j % 32` of word `j / 32`. -/
theorem wordsBits_getElem? (ws : List Word32) (j : Nat) :
    (ws.flatMap wordBits)[j]? = (ws[j / 32]?).map fun W => W.getLsbD (31 - j % 32) := by
  induction ws generalizing j with
  | nil => rfl
  | cons W ws ih =>
    rw [List.flatMap_cons]
    by_cases hj : j < 32
    · rw [List.getElem?_append_left hj, wordBits_getElem? W hj, Nat.div_eq_of_lt hj, Nat.mod_eq_of_lt hj]
      rfl
    · obtain ⟨k, rfl⟩ : ∃ k, j = k + 32 := ⟨j - 32, by omega⟩
      rw [List.getElem?_append_right (Nat.le_of_not_lt hj), wordBits_length, Nat.add_sub_cancel, ih,
        Nat.add_div_right k (by decide), Nat.add_mod_right, List.getElem?_cons_succ]

/-- The preamble and the packets are the words 0 to 8 of a frame (R146). -/
theorem frameWords_getElem? (pix : Vector Pixel 8) {w : Nat} (h : w < 9) :
    (0#32 :: allIdx.map fun i => packetWord pix[i])[w]? = some (frameWord pix w) := by
  interval_cases w <;> rfl

/-- Bit j before the latch is a bit of word `j / 32` of the frame. -/
theorem frameBits_getElem?_word (pix : Vector Pixel 8) {j : Nat} (h : j < 288) :
    (frameBits pix)[j]? = some ((frameWord pix (j / 32)).getLsbD (31 - j % 32)) := by
  rw [frameBits_words, List.getElem?_append_left (by simpa [allIdx] using h), wordsBits_getElem?,
    frameWords_getElem? pix (by omega), Option.map_some]

/-- From bit 288 on a frame has the 36 zeros of the latch and nothing after them. -/
theorem frameBits_getElem?_latch (pix : Vector Pixel 8) {j : Nat} (h : 288 ≤ j) :
    (frameBits pix)[j]? = if j < 324 then some false else none := by
  have hlen : ((0#32 :: allIdx.map fun i => packetWord pix[i]).flatMap wordBits).length = 288 := by simp [allIdx]
  rw [frameBits_words, List.getElem?_append_right (by omega), hlen, List.getElem?_replicate]
  exact if_congr (by omega) rfl rfl

theorem frameWord_zero (pix : Vector Pixel 8) : frameWord pix 0 = 0#32 := rfl

theorem frameWord_succ (pix : Vector Pixel 8) (i : Fin 8) : frameWord pix (i.val + 1) = packetWord pix[i] := by
  simp only [frameWord]
  rw [dif_pos ⟨by omega, by omega⟩]
  rfl

/-- Settles O30: the sampled bits are `frameBits`; bits 0 to 287 are those of word `j / 32` (the zero preamble, then
the packets), and the rest are the latch's. -/
theorem sampledBitByNumber : Obligations.SampledBitByNumber := by
  intro pix dat j
  rw [rx_frameOps]
  refine ⟨fun h => ?preamble, fun i h => ?packet, fun h h' => ?latch, fun h => ?beyond⟩
  case preamble =>
    rw [frameBits_getElem?_word pix (by omega), Nat.div_eq_of_lt h, frameWord_zero, BitVec.getLsbD_zero]
  case packet =>
    rw [frameBits_getElem?_word pix (by omega), h, frameWord_succ]
  case latch =>
    rw [frameBits_getElem?_latch pix h, if_pos h']
  case beyond =>
    rw [frameBits_getElem?_latch pix (by omega), if_neg (by omega)]

end Sys2Proof.Machine
end

section
/-! The line operations of a frame by number (R146), and the step of a busy block (R148, R64). -/

namespace Sys2Proof.Machine

/-- The latch by the number of its line operation: `DAT` low, then `CLK` high and low in turn. -/
theorem latchOps_getElem? : ∀ n < 73, latchOps[n]? =
    some (if n = 0 then ⟨.dat, false⟩ else if n % 2 = 1 then ⟨.clk, true⟩ else ⟨.clk, false⟩) := by
  decide

/-- Line operation n of `FrameOps` is that of the closed form (R146). -/
theorem frameOps_getElem? (pix : Vector Pixel 8) {n : Nat} (h : n < 937) :
    (frameOps pix)[n]? = some (frameOp pix n) := by
  have hlen : ((0#32 :: allIdx.map fun i => packetWord pix[i]).flatMap wordOps).length = 864 := by simp [allIdx]
  rw [frameOps_words, frameOp]
  by_cases hn : n ≤ 863
  · have hrow : n < 96 * (0#32 :: allIdx.map fun i => packetWord pix[i]).length := Nat.lt_succ_of_le hn
    have hword : n / 3 / 32 = n / 96 := by omega
    have hbit : n / 3 % 32 = n % 96 / 3 := by omega
    have hphase : n % 96 % 3 = n % 3 := by omega
    rw [List.getElem?_append_left (by omega), words_getElem? _ n hrow,
      frameWords_getElem? pix (by omega), Option.bind_some, wordOps_getElem? _ _ (Nat.mod_lt n (by decide)),
      if_pos hn, hword, hbit, hphase]
  · obtain ⟨m, rfl⟩ : ∃ m, n = 864 + m := ⟨n - 864, by omega⟩
    have hstart : 864 + m = 864 ↔ m = 0 := by omega
    have hphase : (864 + m) % 2 = m % 2 := by omega
    rw [List.getElem?_append_right (by omega), hlen, Nat.add_sub_cancel_left, latchOps_getElem? m (by omega),
      if_neg hn, hphase]
    simp only [hstart]

/-- A performed line operation before the last one moves `SEQ` on by one (R31). -/
theorem lineSet_performed_seq_of_lt {op : LineOp} {s : State} {n : Fin 937} (ha : s.answerAt 0 = .performed)
    (hs : s.seq = some n) (hn : n.val + 1 < 937) : (lineSet op s).state.seq = some ⟨n.val + 1, hn⟩ := by
  rw [lineSet_performed ha, advanceSeq_of_lt (by simpa using hs) hn]

/-- The last line operation, performed, ends the frame with the response `OK` (R131). -/
theorem lineSet_performed_last {op : LineOp} {s : State} {n : Fin 937} (ha : s.answerAt 0 = .performed)
    (hs : s.seq = some n) (hn : n.val = 936) :
    (lineSet op s).state.seq = none ∧ (lineSet op s).state.rsp = some (respWord .ok 0) := by
  rw [lineSet_performed ha, advanceSeq_of_last (by simpa using hs) (by omega)]
  exact ⟨completeTx_seq _ _, completeTx_rsp _ _⟩

/-- A line operation that is not performed ends the frame with the response `IoFailure` and is not recorded (R149). -/
theorem lineSet_not_performed {op : LineOp} {s : State} (ha : s.answerAt 0 ≠ .performed) :
    (lineSet op s).state.trace = s.trace ∧ (lineSet op s).state.seq = none ∧
      (lineSet op s).state.rsp = some (respWord .ioFailure 0) := by
  refine ⟨by rw [(lineSet_trace op s).2, if_neg ha], ?_⟩
  cases h : s.answerAt 0 with
  | performed => exact absurd h ha
  | failed took =>
    rw [lineSet_failed h]
    exact ⟨completeTx_seq _ _, completeTx_rsp _ _⟩

/-- Settles O33: the step is `lineStep`, whose operation is entry n of the frame; what it leaves is `lineSet_frame`, and
the rest is the case of its answer. -/
theorem busyStepIsOneLineOperation : Obligations.BusyStepIsOneLineOperation := by
  intro s n hs hr
  obtain ⟨hpix, hdefb, hreq, -, hnops, -⟩ := lineSet_frame (frameOp s.pix n.val) s.popRst
  refine ⟨lineStep n s.popRst, frameOp s.pix n.val, step_of_busy hs hr, frameOps_getElem? s.pix n.isLt, rfl,
    hpix, hdefb, hreq, hnops, fun ha => ⟨?_, fun hn => ?_, fun hn => ?_⟩, fun ha => ?_⟩
  · exact (lineSet_trace _ s.popRst).2.trans (if_pos ha)
  · exact lineSet_performed_seq_of_lt (s := s.popRst) ha hs (by omega)
  · exact lineSet_performed_last (s := s.popRst) ha hs hn
  · exact lineSet_not_performed (s := s.popRst) ha

end Sys2Proof.Machine
end

section
/-! The opcode map (R81). The mask of a row is all ones in `op`, and in the 32 bits after it all ones where they must be
zero: so a word selects a row exactly when it has the row's `op` and those bits are zero, and that is what the decoder
asks. -/

namespace Sys2Proof

/-- A word selects a row of mask `a ++ b` and match `c ++ d` part by part. -/
theorem and_append_eq_append_iff {n m : Nat} (w : BitVec (n + m)) (a c : BitVec n) (b d : BitVec m) :
    w &&& (a ++ b) = c ++ d ↔ w.extractLsb' m n &&& a = c ∧ w.extractLsb' 0 m &&& b = d := by
  have hsplit : w &&& (a ++ b) = (w.extractLsb' m n &&& a) ++ (w.extractLsb' 0 m &&& b) := by
    rw [← BitVec.and_append, BitVec.extractLsb'_append_extractLsb']
  rw [hsplit]
  constructor
  · intro h
    refine ⟨?_, ?_⟩
    · simpa only [BitVec.extractLsb'_append_eq_left] using congrArg (BitVec.extractLsb' m n) h
    · simpa only [BitVec.extractLsb'_append_eq_right] using congrArg (BitVec.extractLsb' 0 m) h
  · rintro ⟨rfl, rfl⟩
    rfl

/-- A slice of the low bits of a word is that slice of the word. -/
theorem slice_low {n : Nat} (w : BitVec n) {k lo len : Nat} (h : lo + len ≤ k) :
    (w.extractLsb' 0 k).extractLsb' lo len = w.extractLsb' lo len := by
  ext i hi
  simp only [BitVec.getElem_extractLsb', BitVec.getLsbD_extractLsb', Nat.zero_add]
  rw [decide_eq_true (by omega), Bool.true_and]

/-! ## The four masks of the map -/

section masks
variable (w : CmdWord) (op : BitVec 8)

/-- A row with the must-be-zero bits `mz` asks for its `op` and for zeros at `mz`. -/
theorem and_rowMask_iff (mz : BitVec 32) :
    w &&& (BitVec.allOnes 8 ++ mz) = op ++ 0#32 ↔ fieldOp w = op ∧ w.extractLsb' 0 32 &&& mz = 0#32 := by
  refine (and_append_eq_append_iff (n := 8) (m := 32) w _ _ _ _).trans ?_
  rw [BitVec.and_allOnes, fieldOp]

/-- The mask of `WRPIX`: every bit after `op` is free. -/
theorem and_opMask_iff : w &&& 0xFF00000000#40 = op ++ 0#32 ↔ fieldOp w = op :=
  (and_rowMask_iff w op 0).trans (by simp)

/-- The mask of `CLRALL` and `TX`: every bit after `op` is zero. -/
theorem and_fullMask_iff : w &&& 0xFFFFFFFFFF#40 = op ++ 0#32 ↔ fieldOp w = op ∧ w.extractLsb' 0 32 = 0#32 :=
  (and_rowMask_iff w op (BitVec.allOnes 32)).trans (by rw [BitVec.and_allOnes])

/-- The mask of `CLRPIX` and `RDPIX`: every bit after `idx` is zero. -/
theorem and_idxMask_iff : w &&& 0xFF1FFFFFFF#40 = op ++ 0#32 ↔ fieldOp w = op ∧ w.extractLsb' 0 29 = 0#29 := by
  refine (and_rowMask_iff w op (0#3 ++ BitVec.allOnes 29)).trans (and_congr_right fun _ => ?_)
  refine (and_append_eq_append_iff (w.extractLsb' 0 32) 0#3 0 (BitVec.allOnes 29) 0).trans ?_
  rw [slice_low w (by decide), slice_low w (by decide), BitVec.and_allOnes]
  simp

/-- The mask of `FILL`: the bits of `idx` are zero. -/
theorem and_fillMask_iff : w &&& 0xFFE0000000#40 = op ++ 0#32 ↔ fieldOp w = op ∧ w.extractLsb' 29 3 = 0#3 := by
  refine (and_rowMask_iff w op (BitVec.allOnes 3 ++ 0#29)).trans (and_congr_right fun _ => ?_)
  refine (and_append_eq_append_iff (w.extractLsb' 0 32) (BitVec.allOnes 3) 0 0#29 0).trans ?_
  rw [slice_low w (by decide), slice_low w (by decide), BitVec.and_allOnes]
  simp

end masks

/-! ## The decoder, opcode by opcode -/

section opcodes
variable {w : CmdWord}

theorem decodeCommand_wrpix (h : fieldOp w = 0x01#8) :
    decodeCommand w = .ok (.wrpix (fieldIdx w) (fieldR w) (fieldG w) (fieldB w) (fieldLvl w)) := by
  simp [decodeCommand, h]

theorem decodeCommand_clrpix (h : fieldOp w = 0x02#8) :
    decodeCommand w = ifZero (w.extractLsb' 0 29) "CLRPIX" (.clrpix (fieldIdx w)) := by
  simp [decodeCommand, h]

theorem decodeCommand_clrall (h : fieldOp w = 0x03#8) :
    decodeCommand w = ifZero (w.extractLsb' 0 32) "CLRALL" .clrall := by
  simp [decodeCommand, h]

theorem decodeCommand_fill (h : fieldOp w = 0x04#8) :
    decodeCommand w =
      ifZero (w.extractLsb' 29 3) "FILL" (.fill (fieldR w) (fieldG w) (fieldB w) (fieldLvl w)) := by
  simp [decodeCommand, h]

theorem decodeCommand_rdpix (h : fieldOp w = 0x05#8) :
    decodeCommand w = ifZero (w.extractLsb' 0 29) "RDPIX" (.rdpix (fieldIdx w)) := by
  simp [decodeCommand, h]

theorem decodeCommand_tx (h : fieldOp w = 0x06#8) :
    decodeCommand w = ifZero (w.extractLsb' 0 32) "TX" .tx := by
  simp [decodeCommand, h]

/-- The reserved opcodes of R83. -/
theorem decodeCommand_reserved (h : fieldOp w = 0x00#8 ∨ 0x07#8 ≤ fieldOp w) :
    decodeCommand w = .error (.reservedOpcode (fieldOp w)) := by
  have hne {op : BitVec 8} (hop : ¬ (op = 0x00#8 ∨ 0x07#8 ≤ op)) : fieldOp w ≠ op := fun he => hop (he ▸ h)
  rw [decodeCommand, if_neg (hne (by decide)), if_neg (hne (by decide)), if_neg (hne (by decide)),
    if_neg (hne (by decide)), if_neg (hne (by decide)), if_neg (hne (by decide))]

end opcodes

/-- Every value of `op` is one of the seven lines of the table of R81. -/
theorem opcode_cases (op : BitVec 8) :
    op = 0x01#8 ∨ op = 0x02#8 ∨ op = 0x03#8 ∨ op = 0x04#8 ∨ op = 0x05#8 ∨ op = 0x06#8 ∨
      (op = 0x00#8 ∨ 0x07#8 ≤ op) := by
  bv_omega

section mustBeZero
variable {w : CmdWord} {n : Nat} {bits : BitVec n} {m : String} {i : Instr}

theorem decodeCommand_ok_of_ifZero (h : decodeCommand w = ifZero bits m i) (hz : bits = 0) :
    decodeCommand w = .ok i :=
  h.trans (if_pos hz)

theorem decodeCommand_error_of_ifZero (h : decodeCommand w = ifZero bits m i) (hz : bits ≠ 0) :
    ∃ e, decodeCommand w = .error e :=
  ⟨.mustBeZero m, h.trans (if_neg hz)⟩

end mustBeZero

/-! ## The rows -/

/-- A word that selects a row has the row's `op`. -/
theorem fieldOp_of_selectsRow {w : CmdWord} {row : CmdWord × CmdWord} (hrow : row ∈ commandRows)
    (h : selectsRow w row = true) : fieldOp w = fieldOp row.2 := by
  have hmask : ∀ r ∈ commandRows, fieldOp r.1 = BitVec.allOnes 8 := by simp [commandRows, fieldOp]
  have hop : fieldOp (w &&& row.1) = fieldOp row.2 := congrArg fieldOp (beq_iff_eq.mp h)
  rwa [fieldOp, BitVec.extractLsb'_and, ← fieldOp, ← fieldOp, hmask row hrow, BitVec.and_allOnes] at hop

/-- The rows are disjoint, for no two of them have the same `op`. -/
theorem commandRows_disjoint :
    commandRows.Pairwise fun a b => ∀ w : CmdWord, ¬ (selectsRow w a = true ∧ selectsRow w b = true) := by
  have hops : commandRows.Pairwise fun a b => fieldOp a.2 ≠ fieldOp b.2 := by decide
  refine hops.imp_of_mem fun ha hb hne w hw => hne ?_
  rw [← fieldOp_of_selectsRow ha hw.1, fieldOp_of_selectsRow hb hw.2]

/-- R83, R84: a word that selects no row has a reserved `op`, or a 1 in a must-be-zero bit of its `op`. -/
theorem decodeCommand_error_of_no_row {w : CmdWord} (h : ∀ row ∈ commandRows, selectsRow w row = false) :
    ∃ e, decodeCommand w = .error e := by
  have hno (row : CmdWord × CmdWord) (hrow : row ∈ commandRows) : w &&& row.1 ≠ row.2 :=
    beq_eq_false_iff_ne.mp (h row hrow)
  obtain hop | hop | hop | hop | hop | hop | hop := opcode_cases (fieldOp w)
  · exact absurd ((and_opMask_iff w _).mpr hop) (hno (0xFF00000000#40, 0x0100000000#40) (by decide))
  · exact decodeCommand_error_of_ifZero (decodeCommand_clrpix hop) fun hz =>
      hno (0xFF1FFFFFFF#40, 0x0200000000#40) (by decide) ((and_idxMask_iff w _).mpr ⟨hop, hz⟩)
  · exact decodeCommand_error_of_ifZero (decodeCommand_clrall hop) fun hz =>
      hno (0xFFFFFFFFFF#40, 0x0300000000#40) (by decide) ((and_fullMask_iff w _).mpr ⟨hop, hz⟩)
  · exact decodeCommand_error_of_ifZero (decodeCommand_fill hop) fun hz =>
      hno (0xFFE0000000#40, 0x0400000000#40) (by decide) ((and_fillMask_iff w _).mpr ⟨hop, hz⟩)
  · exact decodeCommand_error_of_ifZero (decodeCommand_rdpix hop) fun hz =>
      hno (0xFF1FFFFFFF#40, 0x0500000000#40) (by decide) ((and_idxMask_iff w _).mpr ⟨hop, hz⟩)
  · exact decodeCommand_error_of_ifZero (decodeCommand_tx hop) fun hz =>
      hno (0xFFFFFFFFFF#40, 0x0600000000#40) (by decide) ((and_fullMask_iff w _).mpr ⟨hop, hz⟩)
  · exact ⟨_, decodeCommand_reserved hop⟩

/-- Settles O47: selection of a row gives the `op` and the zero bits that the decoder asks for; the rest are
`decodeCommand_error_of_no_row`, `commandRows_disjoint` and the reserved opcodes. -/
theorem opcodeMapSelectsTheCommand : Obligations.OpcodeMapSelectsTheCommand := by
  refine ⟨fun w h => decodeCommand_wrpix ((and_opMask_iff w 0x01#8).mp h), fun w h => ?_, fun w h => ?_,
    fun w h => ?_, fun w h => ?_, fun w h => ?_, fun w => decodeCommand_error_of_no_row, commandRows_disjoint,
    fun w h => ⟨_, decodeCommand_reserved h⟩⟩
  · obtain ⟨hop, hz⟩ := (and_idxMask_iff w 0x02#8).mp h
    exact decodeCommand_ok_of_ifZero (decodeCommand_clrpix hop) hz
  · obtain ⟨hop, hz⟩ := (and_fullMask_iff w 0x03#8).mp h
    exact decodeCommand_ok_of_ifZero (decodeCommand_clrall hop) hz
  · obtain ⟨hop, hz⟩ := (and_fillMask_iff w 0x04#8).mp h
    exact decodeCommand_ok_of_ifZero (decodeCommand_fill hop) hz
  · obtain ⟨hop, hz⟩ := (and_idxMask_iff w 0x05#8).mp h
    exact decodeCommand_ok_of_ifZero (decodeCommand_rdpix hop) hz
  · obtain ⟨hop, hz⟩ := (and_fullMask_iff w 0x06#8).mp h
    exact decodeCommand_ok_of_ifZero (decodeCommand_tx hop) hz

end Sys2Proof
end

section
/-! The pixel register commands (R100 to R106). Each of them is one update of `PIX` and a response: what a register
holds after a write and what every such update leaves are said once, and so is the run of a list of commands. -/

namespace Sys2Proof

/-! ## Command words with must-be-zero bits (R81) -/

section words
variable (op : BitVec 8) (idx : BitVec 3)

/-- The word of a command whose one operand is `idx`: all 29 bits after it are zero. -/
theorem commandWord_idx : commandWord op idx 0 0 0 0 = op ++ idx ++ 0#29 := by
  apply BitVec.eq_of_toNat_eq
  rw [commandWord_toNat, append_toNat, append_toNat]
  simp only [BitVec.ofNat_eq_ofNat, BitVec.toNat_ofNat]
  omega

theorem fieldOp_append_append (z : BitVec 29) : fieldOp (op ++ idx ++ z) = op := by
  rw [fieldOp, BitVec.extractLsb'_append_eq_of_le (by decide)]
  exact BitVec.extractLsb'_append_eq_left

/-- Bits 31:29 of a command word are its `idx`. -/
theorem slice_idx_commandWord (lvl : Level) (b g r : Byte) :
    (commandWord op idx lvl b g r).extractLsb' 29 3 = idx := by
  apply BitVec.eq_of_toNat_eq
  rw [slice_toNat, commandWord_toNat]
  omega

end words

end Sys2Proof

namespace Sys2Proof.Machine

/-! ## Reading a pixel register after a write (R11) -/

section pixels
variable (s : State) (i : Fin 8) (p : Pixel)

@[simp] theorem readPix_writePix_self : (s.writePix i p).readPix i = p := Vector.getElem_set_self i.isLt

theorem readPix_writePix_of_ne {i j : Fin 8} (h : j ≠ i) : (s.writePix i p).readPix j = s.readPix j :=
  Vector.getElem_set_ne i.isLt j.isLt fun hv => h (Fin.ext hv.symm)

@[simp] theorem readPix_fillPix : (s.fillPix p).readPix i = p := Vector.getElem_replicate i.isLt

@[simp] theorem writePix_readPix : s.writePix i (s.readPix i) = s := by
  rw [State.writePix, State.readPix, Fin.getElem_fin, Vector.set_getElem_self]

/-- Where every register has the pixel already, filling changes nothing. -/
theorem fillPix_of_readPix {s : State} {p : Pixel} (h : ∀ i, s.readPix i = p) : s.fillPix p = s := by
  have hpix : Vector.replicate 8 p = s.pix :=
    Vector.ext fun i hi => (Vector.getElem_replicate hi).trans (h ⟨i, hi⟩).symm
  rw [State.fillPix, hpix]

end pixels

/-! ## The commands -/

section commands
variable (s : State) (i : Fin 8) (p q : Pixel) (r g b : Byte) (l : Level)

theorem exec_wrpix : exec (.wrpix i r g b l) s = .next (wrpixState i ⟨r, g, b, l⟩ s) := rfl

/-- `CLRPIX` is the write of the all-zero pixel (R106 (c)). -/
theorem exec_clrpix : exec (.clrpix i) s = .next (wrpixState i Pixel.zero s) := rfl

/-- `CLRALL` is the fill with the all-zero pixel (R106 (d)). -/
theorem exec_clrall : exec .clrall s = .next (fillState Pixel.zero s) := rfl

theorem exec_fill : exec (.fill r g b l) s = .next (fillState ⟨r, g, b, l⟩ s) := rfl

theorem exec_rdpix : exec (.rdpix i) s = .next (rdpixState i s) := rfl

@[simp] theorem readPix_wrpixState_self : (wrpixState i p s).readPix i = p := readPix_writePix_self s i p

theorem readPix_wrpixState_of_ne {i j : Fin 8} (h : j ≠ i) : (wrpixState i p s).readPix j = s.readPix j :=
  readPix_writePix_of_ne s p h

@[simp] theorem readPix_fillState : (fillState p s).readPix i = p := readPix_fillPix s i p

/-- Of two writes to one register the second stays (R100). -/
@[simp] theorem wrpixState_wrpixState : wrpixState i p (wrpixState i q s) = wrpixState i p s := by
  simp only [wrpixState, respond, State.writePix, Vector.set_set]

/-- Writing the value a register holds changes no register (R100). -/
theorem wrpixState_pix_of_readPix {s : State} {i : Fin 8} {p : Pixel} (h : s.readPix i = p) :
    (wrpixState i p s).pix = s.pix := by
  rw [wrpixState, respond_pix, ← h, writePix_readPix]

/-- A read may be repeated (R104). -/
@[simp] theorem rdpixState_rdpixState : rdpixState i (rdpixState i s) = rdpixState i s := rfl

theorem rdpixState_rsp : (rdpixState i s).rsp = some (respWord .ok (s.readPix i).pack) := rfl

/-- The code `OK` is 0 in bits 31:29 of a response (R85, R86). -/
theorem respWord_ok (d : Packed) : respWord .ok d = 0b000#3 ++ d := rfl

theorem respWord_ok_zero : respWord .ok Pixel.zero.pack = 0x00000000#32 := rfl

end commands

/-- What a pixel command does: it updates `PIX` and responds `OK` (R105). -/
theorem exec_pixelCommand {c : Instr} (h : c.pixelCommand = true) (s : State) :
    ∃ v d, exec c s = .next (respond .ok d { s with pix := v }) := by
  cases c with
  | wrpix i r g b l => exact ⟨_, _, exec_wrpix s i r g b l⟩
  | clrpix i => exact ⟨_, _, exec_clrpix s i⟩
  | clrall => exact ⟨_, _, exec_clrall s⟩
  | fill r g b l => exact ⟨_, _, exec_fill s r g b l⟩
  | rdpix i => exact ⟨s.pix, _, exec_rdpix s i⟩
  | _ => cases h

/-! ## What a pixel command leaves (R105) -/

theorem OnlyPixAndRsp.refl (s : State) : OnlyPixAndRsp s s :=
  ⟨rfl, ⟨rfl, rfl, rfl, rfl, rfl⟩, ⟨rfl, rfl⟩, rfl, rfl, rfl⟩

theorem OnlyPixAndRsp.trans {s t u : State} (h : OnlyPixAndRsp s t) (h' : OnlyPixAndRsp t u) : OnlyPixAndRsp s u := by
  obtain ⟨hdefb, ⟨hclk, hdat, hseq, htrace, hnops⟩, ⟨hret, htx⟩, hreq, hio, hrst⟩ := h
  obtain ⟨hdefb', ⟨hclk', hdat', hseq', htrace', hnops'⟩, ⟨hret', htx'⟩, hreq', hio', hrst'⟩ := h'
  exact ⟨hdefb'.trans hdefb,
    ⟨hclk'.trans hclk, hdat'.trans hdat, hseq'.trans hseq, htrace'.trans htrace, hnops'.trans hnops⟩,
    ⟨hret'.trans hret, htx'.trans htx⟩, hreq'.trans hreq, hio'.trans hio, hrst'.trans hrst⟩

/-- An update of `PIX` and a response leave everything else. -/
theorem onlyPixAndRsp_respond (s : State) (v : Vector Pixel 8) (c : Code) (d : Packed) :
    OnlyPixAndRsp s (respond c d { s with pix := v }) :=
  OnlyPixAndRsp.refl s

/-! ## Lists of commands -/

theorem execAll_cons {i : Instr} {s t : State} (h : exec i s = .next t) (rest : List Instr) :
    execAll (i :: rest) s = execAll rest t := by
  rw [execAll, h]

theorem execAll_pair {i j : Instr} {s t : State} (h : exec i s = .next t) : execAll [i, j] s = exec j t := by
  rw [execAll_cons h, execAll]
  cases exec j t <;> rfl

/-- Any sequence of pixel commands runs to its end, and what one of them leaves all of them leave. -/
theorem execAll_pixelCommands {cmds : List Instr} (h : ∀ c ∈ cmds, c.pixelCommand = true) (s : State) :
    ∃ t, execAll cmds s = .next t ∧ OnlyPixAndRsp s t := by
  induction cmds generalizing s with
  | nil => exact ⟨s, rfl, OnlyPixAndRsp.refl s⟩
  | cons c cmds ih =>
    obtain ⟨hc, hcmds⟩ := List.forall_mem_cons.mp h
    obtain ⟨v, d, hexec⟩ := exec_pixelCommand hc s
    obtain ⟨t, hrun, hframe⟩ := ih hcmds (respond .ok d { s with pix := v })
    exact ⟨t, (execAll_cons hexec cmds).trans hrun, (onlyPixAndRsp_respond s v .ok d).trans hframe⟩

section writes
variable {cmd : Fin 8 → Instr} {p : Pixel} (hcmd : ∀ s i, exec (cmd i) s = .next (wrpixState i p s))
include hcmd

/-- Writes of one pixel are the fill with it, in whatever order they come, if every register they leave out has that
pixel already; no write at all is the fill only where the response stands there too. -/
theorem execAll_writes (order : List (Fin 8)) (s : State) (hpix : ∀ i, i ∉ order → s.readPix i = p)
    (hrsp : order = [] → s.rsp = some (respWord .ok 0)) : execAll (order.map cmd) s = .next (fillState p s) := by
  induction order generalizing s with
  | nil =>
    have hfill : s.fillPix p = s := fillPix_of_readPix fun i => hpix i List.not_mem_nil
    rw [fillState, hfill, respond, ← hrsp rfl]
    rfl
  | cons i order ih =>
    rw [List.map_cons, execAll_cons (hcmd s i)]
    refine ih (wrpixState i p s) (fun j hj => ?_) fun _ => rfl
    by_cases hji : j = i
    · rw [hji, readPix_wrpixState_self]
    · rw [readPix_wrpixState_of_ne s p hji, hpix j (List.not_mem_cons_of_ne_of_not_mem hji hj)]

/-- The eight single writes, in any order, are the fill (R106 (d), (e)). -/
theorem execAll_writes_of_perm {order : List (Fin 8)} (h : order.Perm (List.finRange 8)) (s : State) :
    execAll (order.map cmd) s = .next (fillState p s) := by
  have hall (i : Fin 8) : i ∈ order := h.mem_iff.mpr (List.mem_finRange i)
  exact execAll_writes hcmd order s (fun i hi => absurd (hall i) hi)
    fun hnil => absurd hnil (List.ne_nil_of_mem (hall 0))

end writes

/-! ## The packet of a pixel in the frame (R146) -/

/-- The 96 line operations from `96 * k` on of a row of words are those of word k. -/
theorem words_drop_take (ws : List Word32) (rest : List LineOp) {k : Nat} (h : k < ws.length) :
    ((ws.flatMap wordOps ++ rest).drop (96 * k)).take 96 = wordOps ws[k] := by
  induction ws generalizing k with
  | nil => exact absurd h (Nat.not_lt_zero k)
  | cons W ws ih =>
    rw [List.flatMap_cons, List.append_assoc]
    cases k with
    | zero => exact List.take_left' (wordOps_length W)
    | succ k =>
      have hstart : 96 * (k + 1) = (wordOps W).length + 96 * k := by rw [wordOps_length]; ring
      rw [hstart, List.drop_length_add_append]
      exact ih (Nat.lt_of_succ_lt_succ h)

/-- The packet of pixel i is the 96 line operations of the frame from `96 + 96 * i` on. -/
theorem frameOps_packet (pix : Vector Pixel 8) (i : Fin 8) :
    ((frameOps pix).drop (96 + 96 * i.val)).take 96 = wordOps (packetWord pix[i]) := by
  have hidx : ∀ j : Fin 8, allIdx[j.val] = j := by decide
  have hstart : 96 + 96 * i.val = 96 * (i.val + 1) := by ring
  have hlen : i.val + 1 < (0#32 :: allIdx.map fun i => packetWord pix[i]).length := Nat.succ_lt_succ i.isLt
  rw [frameOps_words, hstart, words_drop_take _ _ hlen, List.getElem_cons_succ, List.getElem_map, hidx]

/-- A cleared pixel is sent as `0xE0 0x00 0x00 0x00` (R101). -/
theorem wordOps_packet_zero :
    wordOps (packetWord Pixel.zero) = [0xE0#8, 0x00#8, 0x00#8, 0x00#8].flatMap byteOps := rfl

/-! ## The obligations -/

/-- Settles O6: (a) and (b) read a register after a write, (c) is the definition, (d) and (e) are
`execAll_writes_of_perm`, and (f) is `execAll_pixelCommands`. -/
theorem pixelCommandLaws : Obligations.PixelCommandLaws := by
  refine ⟨fun i r g b l s => ⟨_, execAll_pair (exec_wrpix s i r g b l), ?a⟩,
    fun i j r g b l s hji => ⟨_, _, execAll_pair (exec_wrpix s i r g b l), exec_rdpix s j, ?b⟩,
    fun i s => rfl,
    fun s order h => ⟨rfl, execAll_writes_of_perm exec_clrpix h s⟩,
    fun r g b l s order h => execAll_writes_of_perm (fun s i => exec_wrpix s i r g b l) h s,
    fun cmds s h => ?f⟩
  case a => rw [rdpixState_rsp, readPix_wrpixState_self, respWord_ok, Pixel.pack]
  case b => rw [rdpixState_rsp, rdpixState_rsp, readPix_wrpixState_of_ne s _ hji]
  case f =>
    obtain ⟨t, hrun, hdefb, ⟨hclk, hdat, hseq, htrace, -⟩, -⟩ := execAll_pixelCommands h s
    exact ⟨t, hrun, hclk, hdat, hseq, htrace, hdefb⟩

/-- Settles O1: one register is written, and the corner cases are the rules of `wrpixState`. -/
theorem wrpixWritesOneWholePixel : Obligations.WrpixWritesOneWholePixel := by
  intro i r g b l s
  refine ⟨_, exec_wrpix s i r g b l, readPix_wrpixState_self s i _, fun j hj => readPix_wrpixState_of_ne s _ hj, rfl,
    onlyPixAndRsp_respond s _ _ _, rfl, rfl, rfl, fun h => wrpixState_pix_of_readPix h, fun r' g' b' l' => ?_⟩
  rw [execAll_pair (exec_wrpix s i r' g' b' l'), exec_wrpix, exec_wrpix, wrpixState_wrpixState]

/-- Settles O2: the command is the write of `Pixel.zero`, whose packet is still in the frame; a 1 in the 29 bits after
`idx` makes the word illegal. -/
theorem clrpixClearsOnePixel : Obligations.ClrpixClearsOnePixel := by
  intro i s
  have hclear : (wrpixState i Pixel.zero s).pix[i] = Pixel.zero := readPix_wrpixState_self s i _
  refine ⟨_, exec_clrpix s i, hclear, fun j hj => readPix_wrpixState_of_ne s _ hj, rfl,
    onlyPixAndRsp_respond s _ _ _, rfl, ?packet, fun h => wrpixState_pix_of_readPix h, ?word, fun z hz => ?illegal⟩
  case packet => rw [frameOps_packet, hclear, wordOps_packet_zero]
  case word => rw [encode, commandWord_idx]
  case illegal =>
    refine decodeCommand_error_of_ifZero (decodeCommand_clrpix (fieldOp_append_append _ _ z)) ?_
    rwa [BitVec.extractLsb'_append_eq_right]

/-- Settles O3: every register is filled with `Pixel.zero`, which packs to 0; a 1 in the 32 bits after `op` makes the
word illegal. -/
theorem clrallClearsEveryPixel : Obligations.ClrallClearsEveryPixel := by
  intro s
  refine ⟨_, exec_clrall s, fun i => readPix_fillState s i _, rfl, onlyPixAndRsp_respond s _ _ _,
    fun i => ⟨_, exec_rdpix _ i, ?read⟩, rfl, fun z hz => ?illegal⟩
  case read => rw [rdpixState_rsp, readPix_fillState, respWord_ok_zero]
  case illegal =>
    refine decodeCommand_error_of_ifZero (decodeCommand_clrall BitVec.extractLsb'_append_eq_left) ?_
    rwa [BitVec.extractLsb'_append_eq_right]

/-- Settles O4: every register is filled; the three bits that `WRPIX` has for `idx` are must-be-zero. -/
theorem fillWritesEveryPixel : Obligations.FillWritesEveryPixel := by
  intro r g b l s
  refine ⟨_, exec_fill s r g b l, fun i => readPix_fillState s i _, rfl, onlyPixAndRsp_respond s _ _ _, rfl,
    fun z hz => ?_, rfl⟩
  refine decodeCommand_error_of_ifZero (decodeCommand_fill (fieldOp_commandWord _ z l b g r)) ?_
  exact (slice_idx_commandWord _ z l b g r).trans_ne hz

/-- Settles O5: the state equation is the definition; a read leaves `PIX`, so a second one responds as the first, and
after reset every register is `Pixel.zero`. -/
theorem rdpixRespondsThePackedPixel : Obligations.RdpixRespondsThePackedPixel := by
  intro i s
  refine ⟨exec_rdpix s i, ?again, ?reset, ?word, fun z hz => ?illegal⟩
  case again => rw [execAll_pair (exec_rdpix s i), exec_rdpix, exec_rdpix, rdpixState_rdpixState]
  case reset =>
    have hzero : State.reset.readPix i = Pixel.zero := replicate_zero_getElem i
    rw [exec_rdpix, rdpixState, hzero, respond, respWord_ok_zero]
  case word => rw [encode, commandWord_idx]
  case illegal =>
    refine decodeCommand_error_of_ifZero (decodeCommand_rdpix (fieldOp_append_append _ _ z)) ?_
    rwa [BitVec.extractLsb'_append_eq_right]

end Sys2Proof.Machine
end

section
/-! A frame as the cells of its data bits and the latch, and what follows from that form: its length, its lines' levels
at the end, its counts (R147) and its samples (R152). -/

namespace Sys2Proof.Machine

/-! ## The data bits of a frame -/

/-- The bits of the preamble and of the eight packets, in order of transmission (R145): the frame without its latch. -/
def frameDataBits (pix : Vector Pixel 8) : List Bit :=
  (0#32 :: allIdx.map fun i => packetWord pix[i]).flatMap wordBits

theorem frameOps_eq_cells (pix : Vector Pixel 8) : frameOps pix = (frameDataBits pix).flatMap cell ++ latchOps := by
  rw [frameOps_words, funext wordOps_eq_cells, ← List.flatMap_assoc, frameDataBits]

theorem frameBits_eq_dataBits (pix : Vector Pixel 8) :
    frameBits pix = frameDataBits pix ++ List.replicate 36 false := frameBits_words pix

@[simp] theorem frameDataBits_length (pix : Vector Pixel 8) : (frameDataBits pix).length = 288 := by
  simp [frameDataBits, allIdx]

@[simp] theorem frameBits_length (pix : Vector Pixel 8) : (frameBits pix).length = 324 := by
  rw [frameBits_eq_dataBits, List.length_append, frameDataBits_length, List.length_replicate]

/-- The first bit of the preamble is 0. -/
theorem frameDataBits_eq_cons (pix : Vector Pixel 8) : ∃ bits, frameDataBits pix = false :: bits := by
  rw [frameDataBits, List.flatMap_cons, wordBits_zero]
  exact ⟨_, rfl⟩

@[simp] theorem frameOps_length (pix : Vector Pixel 8) : (frameOps pix).length = 937 := by
  simp [frameOps_words, allIdx]

/-- The latch leaves both lines low (R142). -/
theorem levelsAfter_latchOps (c d : Bit) : levelsAfter c d latchOps = (false, false) := by
  rw [latchOps, levelsAfter, levelsAfter_pulses]
  rfl

/-- A frame leaves both lines low, whatever they were before (R143). -/
theorem levelsAfter_frameOps (c d : Bit) (pix : Vector Pixel 8) : levelsAfter c d (frameOps pix) = (false, false) := by
  rw [frameOps, levelsAfter_append, levelsAfter_latchOps]

/-! ## Sampling (R151, R152) -/

/-- From `CLK` = 1 the pulse of the first cell has no rising edge and leaves `CLK` at 0: only its sample is missing. -/
theorem rx_high_cells (v : Bit) (bits : List Bit) (dat : Bit) (rest : List LineOp) :
    rx true dat ((v :: bits).flatMap cell ++ rest) = (rx false dat ((v :: bits).flatMap cell ++ rest)).tail := rfl

/-- From `CLK` = 1 a receiver misses exactly the first bit of a frame (R152). -/
theorem rx_high_frameOps (pix : Vector Pixel 8) (dat : Bit) :
    rx true dat (frameOps pix) = (frameBits pix).tail := by
  obtain ⟨bits, hbits⟩ := frameDataBits_eq_cons pix
  rw [← rx_frameOps pix dat, frameOps_eq_cells, hbits, rx_high_cells]

/-- A cell begun with `CLK` = 0 moves `DAT` first and leaves `CLK` = 0 for the next one. -/
theorem datStable_cells (bits : List Bit) (rest : List LineOp) :
    datStable false (bits.flatMap cell ++ rest) = datStable false rest := by
  induction bits with
  | nil => rfl
  | cons v bits ih => exact ih

theorem datStable_latchOps : datStable false latchOps = true := by decide

theorem datStable_frameOps (pix : Vector Pixel 8) : datStable false (frameOps pix) = true := by
  rw [frameOps_eq_cells, datStable_cells, datStable_latchOps]

/-- Settles O29: a frame is cells and the latch; from `CLK` = 0 each cell gives its bit, and from `CLK` = 1 only the
first cell's sample is missing. -/
theorem receiverSamplesTheFrameBits : Obligations.ReceiverSamplesTheFrameBits :=
  fun pix dat =>
    ⟨rfl, frameBits_length pix, rx_frameOps pix dat, rx_high_frameOps pix dat, datStable_frameOps pix⟩

/-! ## Line operations by number (R146) -/

/-- Data bit q of a frame is in the preamble for `q < 32`, and in the packet of pixel `q / 32 - 1` from there on. -/
theorem frameWord_of_bit (pix : Vector Pixel 8) {q : Nat} (h : q < 288) :
    frameWord pix (q / 32) = if q < 32 then 0#32 else packetWord (pix.get (Fin.ofNat 8 (q / 32 - 1))) := by
  by_cases hq : q < 32
  · rw [if_pos hq, Nat.div_eq_of_lt hq, frameWord_zero]
  · obtain ⟨i, hi⟩ : ∃ i : Fin 8, q / 32 = i.val + 1 := ⟨⟨q / 32 - 1, by omega⟩, by simp only; omega⟩
    rw [if_neg hq, hi, frameWord_succ, Nat.add_sub_cancel, Fin.ofNat_val_eq_self]
    rfl

/-- Settles O26: entry n is `frameOp pix n`, whose word is the preamble or a packet by its bit number `n / 3`. -/
theorem frameOpsClosedForm : Obligations.FrameOpsClosedForm := by
  intro pix
  refine ⟨frameOps_length pix, fun n hn => ⟨?_, frameOps_getElem? pix hn⟩⟩
  rw [frameOps_getElem? pix hn, frameOp]
  by_cases hdata : n ≤ 863
  · rw [if_pos hdata, if_pos hdata, frameWord_of_bit pix (by omega)]
  · rw [if_neg hdata, if_neg hdata]

/-! ## Counts (R147) -/

section cells
variable (bits : List Bit)

/-- A cell has one operation on `DAT`. -/
theorem countP_dat_cells : (bits.flatMap cell).countP (fun op => op.line = .dat) = bits.length := by
  induction bits with
  | nil => rfl
  | cons v bits ih =>
    rw [List.flatMap_cons, List.countP_append, ih, List.length_cons, Nat.add_comm]
    rfl

/-- A cell sets `CLK` once to each level. -/
theorem count_clk_cells (v : Bit) : (bits.flatMap cell).count ⟨.clk, v⟩ = bits.length := by
  induction bits with
  | nil => rfl
  | cons b bits ih =>
    have hcell : (cell b).count ⟨.clk, v⟩ = 1 := by cases b <;> cases v <;> rfl
    rw [List.flatMap_cons, List.count_append, ih, hcell, List.length_cons, Nat.add_comm]

/-- A cell sets `DAT` to its bit. -/
theorem count_dat_cells (v : Bit) : (bits.flatMap cell).count ⟨.dat, v⟩ = bits.count v := by
  induction bits with
  | nil => rfl
  | cons b bits ih =>
    have hcell : (cell b).count ⟨.dat, v⟩ = [b].count v := by cases b <;> cases v <;> rfl
    rw [List.flatMap_cons, List.count_append, ih, hcell, ← List.count_append, List.singleton_append]

end cells

/-- The latch in numbers: one `DAT` operation, to 0, and 36 pulses (R142). -/
theorem latchOps_counts :
    latchOps.countP (fun op => op.line = .dat) = 1 ∧ (∀ v, latchOps.count ⟨.clk, v⟩ = 36) ∧
      latchOps.count ⟨.dat, true⟩ = 0 := by decide

/-- The 1 bits of a word, counted in either order. -/
theorem wordBits_count (W : Word32) : (wordBits W).count true = (List.range 32).countP fun k => W.getLsbD k := by
  have hrev : (List.range 32).map (31 - ·) = (List.range 32).reverse := by decide
  have hmap : wordBits W = ((List.range 32).map (31 - ·)).map fun k => W.getLsbD k := by
    rw [List.map_map]; rfl
  rw [hmap, hrev, List.count, List.countP_map, List.countP_reverse]
  exact List.countP_congr fun k _ => by simp

/-- A packet is the flag and the packed pixel (R24, R139). -/
theorem packetWord_eq_flag_pack (p : Pixel) : packetWord p = Config.flag ++ p.pack := by
  apply BitVec.eq_of_toNat_eq
  simp only [packetWord, Pixel.pack, append_toNat]
  ring

/-- The bits of a packet: 28 to 0 are the packed pixel's, 31 to 29 the flag's. -/
theorem packetWord_getLsbD (p : Pixel) (k : Nat) :
    (packetWord p).getLsbD k = if k < 29 then p.pack.getLsbD k else Config.flag.getLsbD (k - 29) := by
  rw [packetWord_eq_flag_pack]
  exact BitVec.getLsbD_append

/-- The 1 bits of a packet: three of the flag and those of the fields. -/
theorem wordBits_packet_count (p : Pixel) : (wordBits (packetWord p)).count true = 3 + popcount p := by
  have hlow : (List.range 29).countP (fun k => (packetWord p).getLsbD k) = popcount p :=
    List.countP_congr fun k hk => by rw [packetWord_getLsbD, if_pos (List.mem_range.mp hk)]
  have hflag : [29, 30, 31].countP (fun k => (packetWord p).getLsbD k) = 3 := by
    simp [packetWord_getLsbD]
  have hsplit : List.range 32 = List.range 29 ++ [29, 30, 31] := by decide
  rw [wordBits_count, hsplit, List.countP_append, hlow, hflag, Nat.add_comm]

/-- The pixels in the order of every loop of the spec. -/
theorem toList_eq_map_allIdx (pix : Vector Pixel 8) : pix.toList = allIdx.map fun i => pix[i] := by
  apply List.ext_getElem (by simp [allIdx])
  intro i hi _
  have hi : i < 8 := by simpa using hi
  interval_cases i <;> rfl

/-- The 1 bits of a frame are those of its eight packets (R147). -/
theorem frameDataBits_count (pix : Vector Pixel 8) :
    (frameDataBits pix).count true = 24 + (pix.toList.map popcount).sum := by
  have hsum : (allIdx.map fun i => 3 + popcount pix[i]).sum = 24 + (allIdx.map fun i => popcount pix[i]).sum := by
    rw [List.sum_map_add]; rfl
  rw [frameDataBits, List.flatMap_cons, List.count_append, wordBits_zero, List.flatMap_map, List.count_flatMap,
    toList_eq_map_allIdx, List.map_map]
  simpa [Function.comp_def, wordBits_packet_count, List.count_replicate] using hsum

/-- Settles O27: the 288 cells count one `DAT` operation and two of `CLK` each, the latch one and 36 pulses. -/
theorem frameCounts : Obligations.FrameCounts := by
  intro pix
  obtain ⟨hdat, hclk, hhigh⟩ := latchOps_counts
  refine ⟨frameOps_length pix, ?_, ?_, ?_, ?_⟩ <;> rw [frameOps_eq_cells]
  · rw [List.countP_append, countP_dat_cells, hdat, frameDataBits_length]
  · rw [List.count_append, count_clk_cells, hclk, frameDataBits_length]
  · rw [List.count_append, count_clk_cells, hclk, frameDataBits_length]
  · rw [List.count_append, count_dat_cells, hhigh, frameDataBits_count, Nat.add_zero]

end Sys2Proof.Machine
end

section
/-! The packet of a pixel as bits, as bytes and as an OR (R76, R139), and the frame as 36 bytes and the latch (R75). -/

namespace Sys2Proof.Machine

/-- The flag and a level as an OR (R76). -/
theorem flag_append_eq_or (lvl : Level) : 0b111#3 ++ lvl = 0xE0#8 ||| lvl.setWidth 8 :=
  calc 0b111#3 ++ lvl
      = (0b111#3 ++ lvl).setWidth 8 := (BitVec.setWidth_eq _).symm
    _ = 0xE0#8 ||| lvl.setWidth 8 := BitVec.setWidth_append_eq_shiftLeft_setWidth_or

/-- The bytes of a word that is four bytes side by side (R136). -/
theorem wordBytes_append (a b c d : Byte) : wordBytes (a ++ b ++ c ++ d) = [a, b, c, d] := by
  have hword : (a ++ b ++ c ++ d).toNat = a.toNat * 2 ^ 24 + b.toNat * 2 ^ 16 + c.toNat * 2 ^ 8 + d.toNat := by
    simp only [append_toNat]
    ring
  have hslice (lo : Nat) (B : Byte) (h : (a ++ b ++ c ++ d).toNat / 2 ^ lo % 2 ^ 8 = B.toNat) :
      (a ++ b ++ c ++ d).extractLsb' lo 8 = B :=
    BitVec.eq_of_toNat_eq ((slice_toNat _ lo 8).trans h)
  rw [wordBytes, hslice 24 a (by omega), hslice 16 b (by omega), hslice 8 c (by omega), hslice 0 d (by omega)]

section packet
variable (p : Pixel)

/-- Each field shifted to its place (R76). -/
theorem packetWord_eq_or :
    packetWord p =
      0xE0000000#32 ||| (p.lvl.setWidth 32 <<< 24) ||| (p.b.setWidth 32 <<< 16) ||| (p.g.setWidth 32 <<< 8) |||
        p.r.setWidth 32 := by
  have hflag : (Config.flag.setWidth 32) <<< 29 = 0xE0000000#32 := by decide
  calc packetWord p
      = (Config.flag ++ p.lvl ++ p.b ++ p.g ++ p.r).setWidth 32 := (BitVec.setWidth_eq _).symm
    _ = _ := by
      iterate 4 rw [BitVec.setWidth_append_eq_shiftLeft_setWidth_or]
      simp only [BitVec.shiftLeft_or_distrib, ← BitVec.shiftLeft_add, Nat.reduceAdd, hflag]

/-- The bytes of a packet in order of transmission: flag and level, blue, green, red (R141). -/
theorem wordBytes_packetWord : wordBytes (packetWord p) = [0b111#3 ++ p.lvl, p.b, p.g, p.r] :=
  wordBytes_append (0b111#3 ++ p.lvl) p.b p.g p.r

theorem packetWord_byteZero : (packetWord p).extractLsb' 24 8 = 0b111#3 ++ p.lvl :=
  List.head_eq_of_cons_eq (wordBytes_packetWord p)

theorem packetWord_byteZero_toNat : ((packetWord p).extractLsb' 24 8).toNat = 224 + p.lvl.toNat := by
  rw [packetWord_byteZero, append_toNat]
  rfl

end packet

section bytes
variable (pix : Vector Pixel 8)

theorem frameBytes_length : (frameBytes pix).length = 36 := by
  simp [frameBytes, allIdx]

/-- The preamble and the packets byte by byte (R75). -/
theorem frameOps_eq_bytes : frameOps pix = (frameBytes pix).flatMap byteOps ++ latchOps := by
  have hpacket (p : Pixel) :
      wordOps (packetWord p) = [0xE0#8 ||| p.lvl.setWidth 8, p.b, p.g, p.r].flatMap byteOps := by
    rw [wordOps, wordBytes_packetWord, flag_append_eq_or]
  simp only [frameOps, frameBytes, hpacket, List.flatMap_append, List.flatMap_assoc]
  rfl

/-- The bytes of the packet of pixel i. -/
theorem frameBytes_packet (i : Fin 8) :
    ((frameBytes pix).drop (4 + 4 * i.val)).take 4 =
      [0xE0#8 ||| pix[i].lvl.setWidth 8, pix[i].b, pix[i].g, pix[i].r] := by
  fin_cases i <;> rfl

end bytes

/-- Settles O28: the OR form is the shift of each field to its place; byte 0 is the flag and the level side by side;
the bytes of a frame are those of its words. -/
theorem packetWordAndFrameBytes : Obligations.PacketWordAndFrameBytes := by
  refine ⟨fun p => ⟨rfl, packetWord_eq_or p, packetWord_byteZero_toNat p, ?or, ?level⟩, by decide, by decide,
    by decide, fun pix => ⟨frameBytes_length pix, frameOps_eq_bytes pix, frameBytes_packet pix⟩⟩
  case or => rw [packetWord_byteZero, flag_append_eq_or]
  case level => rw [packetWord_byteZero, BitVec.extractLsb'_append_eq_right]

end Sys2Proof.Machine
end

section
/-! `TX` run to its response (R130): its body is the emission of `FrameOps`, so a run of it is a performed list (R143)
or a list cut at its first failed operation (R149). -/

namespace Sys2Proof.Machine

/-! ## The emitters of R133 to R142 -/

theorem pulse_eq_emit (s : State) : pulse s = emit pulseOps s :=
  andThen_congr (fun _ => rfl) (fun t => (emit_one _ t).symm) s

theorem emitBit_eq_emit (v : Bit) (s : State) : emitBit v s = emit (cell v) s :=
  andThen_congr (fun _ => rfl) pulse_eq_emit s

theorem emitByte_eq_emit (B : Byte) (s : State) : emitByte B s = emit (byteOps B) s :=
  forEach_emit (fun k => emitBit_eq_emit (B.getLsbD k)) byteBits s

theorem emitWord_eq_emit (W : Word32) (s : State) : emitWord W s = emit (wordOps W) s :=
  forEach_emit emitByte_eq_emit (wordBytes W) s

/-- The preamble is the word 0 (R137). -/
theorem preambleBody_eq_emit (s : State) : preambleBody s = emit (wordOps 0) s := emitWord_eq_emit 0 s

theorem packetBody_eq_emit (i : Fin 8) (s : State) : packetBody i s = emit (wordOps (packetWord s.pix[i])) s :=
  emitWord_eq_emit _ s

/-- A packet reads its pixel when it begins, and the packets before it have left the pixels as they were. -/
theorem forEach_packetBody_eq_emit (is : List (Fin 8)) (s : State) :
    forEach packetBody is s = emit (is.flatMap fun i => wordOps (packetWord s.pix[i])) s := by
  induction is generalizing s with
  | nil => rfl
  | cons i is ih =>
    rw [forEach_cons, List.flatMap_cons]
    exact andThen_emit (packetBody_eq_emit i s) (by rw [ih, emit_pix])

theorem latchBody_eq_emit (s : State) : latchBody s = emit latchOps s :=
  andThen_congr (fun _ => rfl) (forEach_emit (fun _ => pulse_eq_emit) (List.range Config.latchPulses)) s

/-- The body of `TX` performs `FrameOps` of the pixels it begins with (R130, R145). -/
theorem txBody_eq_emit (s : State) : txBody s = emit (frameOps s.pix) s := by
  have hdata : andThen preambleBody (forEach packetBody allIdx) s =
      emit (wordOps 0 ++ allIdx.flatMap fun i => wordOps (packetWord s.pix[i])) s :=
    andThen_emit (preambleBody_eq_emit s) (by rw [forEach_packetBody_eq_emit, emit_pix])
  rw [txBody, andThen_assoc]
  exact andThen_emit hdata (latchBody_eq_emit _)

/-! ## A frame from its first line operation -/

section frame
variable {s : State}

/-- A frame with no failed operation (R143). -/
theorem txBody_performed (hs : s.seq = some 0) (h : s.allPerformed 937) :
    (txBody s).state = completeTx .ok { s with
      clk := false, dat := false, trace := s.trace ++ frameOps s.pix, nops := s.nops + 937, io := s.io.drop 937 } := by
  have hlen := frameOps_length s.pix
  rw [txBody_eq_emit, emit_completes (frameOps s.pix) s 0 hs (by simp) (by rwa [hlen]), levelsAfter_frameOps, hlen]

/-- A frame whose operation f is the first to fail (R149). -/
theorem txBody_failed {f : Nat} {took : Bit} {op : LineOp} (hs : s.seq = some 0) (hf : f < 937)
    (h : s.firstFailure f took) (hop : (frameOps s.pix)[f]? = some op) :
    let before := levelsAfter s.clk s.dat ((frameOps s.pix).take f)
    let after := if took = true then levelsAfter before.1 before.2 [op] else before
    (txBody s).state = completeTx .ioFailure { s with
      clk := after.1, dat := after.2, trace := s.trace ++ (frameOps s.pix).take f, nops := s.nops + f + 1
      io := s.io.drop (f + 1) } := by
  rw [txBody_eq_emit, emit_failed (frameOps s.pix) op s f took 0 hs (by simpa using hf) h hop]

end frame

/-! ## The obligations -/

theorem exec_tx (s : State) : exec .tx s = .next (txBody (acceptTx s)).state := rfl

theorem exec_transmit (s : State) : exec .transmit s = .next (txBody (acceptTransmit s)).state := rfl

/-- Settles O23: acceptance leaves the pixels, the lines and the answers to come, so the accepted `TX` is a performed
frame from `SEQ` = 0, and its completion gives the caller of `transmit()` the result. -/
theorem transmitSendsTheWholeFrame : Obligations.TransmitSendsTheWholeFrame := by
  intro s h
  refine ⟨?tx, ?transmit, frameOps_length s.pix⟩
  case tx =>
    rw [exec_tx, txBody_performed (acceptTx_seq s) h]
    rfl
  case transmit =>
    rw [exec_transmit, txBody_performed (acceptTransmit_seq s) h]
    rfl

/-- Settles O24: as for O23, with the frame cut at operation f. -/
theorem transmitStopsAtTheFirstFailure : Obligations.TransmitStopsAtTheFirstFailure := by
  intro s f took op hf h hop before after
  constructor
  · rw [exec_tx, txBody_failed (acceptTx_seq s) hf h hop]
    rfl
  · rw [exec_transmit, txBody_failed (acceptTransmit_seq s) hf h hop]
    rfl

end Sys2Proof.Machine
end

section
/-! Brightness and interpolation: the laws of `quantise` (R170) and of `lerp` (R178). Each law of `quantise` is one of the
floor of `31 * q`; each law of `lerp` is one of its difference form. -/

namespace Sys2Proof.Machine

/-! ## `quantise` (R170) -/

theorem quantise_eq_iff {q : Rat} {k : Int} : quantise q = k ↔ (k : Rat) ≤ q * 31 ∧ q * 31 < (k : Rat) + 1 := by
  rw [quantise_eq, Int.floor_eq_iff]

theorem quantise_mono {p q : Rat} (h : p ≤ q) : quantise p ≤ quantise q :=
  Int.floor_le_floor (mul_le_mul_of_nonneg_right h (by norm_num))

/-- The level k is that of the brightnesses from k/31 to below (k+1)/31. -/
theorem quantise_eq_iff_mem_Ico {q : Rat} {k : Int} :
    quantise q = k ↔ (k : Rat) / 31 ≤ q ∧ q < ((k : Rat) + 1) / 31 := by
  rw [quantise_eq_iff, div_le_iff₀ (by norm_num), lt_div_iff₀ (by norm_num)]

theorem quantise_div_31 (k : Int) : quantise ((k : Rat) / 31) = k := by
  have h : (k : Rat) / 31 * 31 = k := div_mul_cancel₀ _ (by norm_num)
  rw [quantise_eq_iff, h]
  exact ⟨le_refl _, lt_add_one _⟩

/-- Only the full brightness has level 31. -/
theorem quantise_eq_31_iff {q : Rat} (h : q ≤ 1) : quantise q = 31 ↔ q = 1 := by
  rw [quantise_eq_iff]
  push_cast
  constructor
  · rintro ⟨hle, -⟩
    linarith
  · rintro rfl
    norm_num

theorem quantise_half : quantise (1 / 2) = 15 := by
  rw [quantise_eq_iff]
  norm_num

/-- Settles O7: every law is one of the floor. -/
theorem quantiseIsTheExactFloor : Obligations.QuantiseIsTheExactFloor := by
  refine ⟨fun q h0 h1 => ?laws, fun p q _ h _ => quantise_mono h, fun k _ _ => quantise_div_31 k,
    ?_, ?_, quantise_half, ?_, ?_, ?_, ?_⟩
  case laws =>
    obtain ⟨hlow, hhigh⟩ := quantise_eq_iff.mp (rfl : quantise q = quantise q)
    obtain ⟨hnonneg, hle⟩ := quantise_bounds h0 h1
    exact ⟨hlow, hhigh, hnonneg, hle, quantise_eq_31_iff h1, narrowBright_toNat h0 h1,
      fun k _ => quantise_eq_iff_mem_Ico⟩
  all_goals
    rw [quantise_eq_iff]
    norm_num

/-! ## `lerp` (R178) -/

section lerp
variable (s e : Rat)

/-- The weighted form of `lerp`. -/
theorem lerp_eq_weighted (i : Nat) : lerp s e i = (s * (7 - i) + e * i) / 7 := by
  rw [lerp_eq]
  ring

@[simp] theorem lerp_zero : lerp s e 0 = s := by simp [lerp_eq]

@[simp] theorem lerp_seven : lerp s e 7 = e := by simp [lerp_eq]

@[simp] theorem lerp_self (i : Nat) : lerp s s i = s := by simp [lerp_eq]

/-- Exchanging the end points turns the sign of the difference. -/
theorem lerp_neg (i : Nat) : lerp (-s) (-e) i = -lerp s e i := by
  simp only [lerp_eq]
  ring

variable {s e}

theorem lerp_mono (h : s ≤ e) {i j : Nat} (hij : i ≤ j) : lerp s e i ≤ lerp s e j := by
  have hcast : (i : Rat) ≤ j := Nat.cast_le.mpr hij
  have hprod : (e - s) * i ≤ (e - s) * j := mul_le_mul_of_nonneg_left hcast (sub_nonneg.mpr h)
  rw [lerp_eq, lerp_eq]
  linarith

theorem lerp_anti (h : e ≤ s) {i j : Nat} (hij : i ≤ j) : lerp s e j ≤ lerp s e i := by
  have hneg := lerp_mono (neg_le_neg h) hij
  rwa [lerp_neg, lerp_neg, neg_le_neg_iff] at hneg

end lerp

/-- Settles O13: falling values are rising ones with the signs turned. -/
theorem lerpLaws : Obligations.LerpLaws :=
  ⟨fun s e i => ⟨lerp_eq s e i, lerp_eq_weighted s e i⟩, fun s e => ⟨lerp_zero s e, lerp_seven s e⟩,
    fun _ _ _ _ hij _ => ⟨fun h => lerp_mono h hij, fun h => lerp_anti h hij⟩,
    fun s e _ hi => lerp_mem ⟨min_le_left s e, le_max_left s e⟩ ⟨min_le_right s e, le_max_right s e⟩ hi⟩

end Sys2Proof.Machine
end

section
/-! The operations of the host layer. Each of them is first its checks, as one condition on its operands, and then a
write of pixels, a response and a result; what such a write leaves is said once. -/

namespace Sys2Proof.Machine

/-! ## Operands in bounds and out of bounds (R211) -/

theorem indexOk_val (i : Fin 8) : indexOk i.val = true := by
  rw [indexOk, decide_eq_true_iff]
  omega

theorem indexOk_eq_false_iff {i : Int} : indexOk i = false ↔ i < 0 ∨ 7 < i := by
  rw [indexOk, decide_eq_false_iff_not]
  omega

theorem chanOk_iff {c : Int} : chanOk c = true ↔ 0 ≤ c ∧ c ≤ 255 := decide_eq_true_iff

theorem chanOk_eq_false_iff {c : Int} : chanOk c = false ↔ c < 0 ∨ 255 < c := by
  rw [chanOk, decide_eq_false_iff_not]
  omega

theorem chanOk_toNat (c : Byte) : chanOk c.toNat = true := by
  rw [chanOk_iff]
  omega

theorem colourOk_iff {c : Colour} :
    colourOk c = true ↔ chanOk c.red = true ∧ chanOk c.green = true ∧ chanOk c.blue = true := by
  simp only [colourOk, Bool.and_eq_true, and_assoc]

theorem colourOk_eq_false_iff {c : Colour} :
    colourOk c = false ↔
      c.red < 0 ∨ 255 < c.red ∨ c.green < 0 ∨ 255 < c.green ∨ c.blue < 0 ∨ 255 < c.blue := by
  simp only [colourOk, Bool.and_eq_false_iff, chanOk_eq_false_iff, or_assoc]

theorem colourOk_toNat (r g b : Byte) : colourOk ⟨r.toNat, g.toNat, b.toNat⟩ = true :=
  colourOk_iff.mpr ⟨chanOk_toNat r, chanOk_toNat g, chanOk_toNat b⟩

theorem brightOk_iff {q : Rat} : brightOk q = true ↔ 0 ≤ q ∧ q ≤ 1 := decide_eq_true_iff

theorem brightOk_eq_false_iff {q : Rat} : brightOk q = false ↔ q < 0 ∨ 1 < q := by
  rw [brightOk, decide_eq_false_iff_not, not_and_or, not_le, not_le]

/-! ## The two phases of an operation (R171) -/

section checked
variable {checks : List (Option Code)} {ok : Bool} {act : State → State} {s : State}
  (hchecks : firstError checks = if ok then none else some .outOfRange)
include hchecks

theorem checked_of_ok (h : ok = true) : checked checks act s = act s :=
  checked_none act s (hchecks.trans (if_pos h))

theorem checked_of_not_ok (h : ok = false) :
    checked checks act s = { s with ret := some (.raised .outOfRange) } :=
  checked_some act s (hchecks.trans (if_neg (Bool.not_eq_true _ ▸ h)))

end checked

theorem firstError_index (i : Int) : firstError [chkIndex i] = if indexOk i then none else some .outOfRange := by
  rw [chkIndex_eq]
  cases indexOk i <;> rfl

theorem firstError_bright (q : Rat) : firstError [chkBright q] = if brightOk q then none else some .outOfRange := by
  rw [chkBright_eq]
  cases brightOk q <;> rfl

/-! ## What a buffer operation writes and leaves -/

/-- A write of pixels, a response and a result leave everything else. -/
theorem onlyPixRspRet_giveBack (s : State) (v : Vector Pixel 8) (w : Option Word32) (r : HostResult) :
    OnlyPixRspRet s (giveBack r { s with pix := v, rsp := w }) :=
  ⟨rfl, ⟨rfl, rfl, rfl, rfl, rfl⟩, rfl, rfl, rfl, rfl⟩

theorem pixelOf_toNat (r g b : Byte) (q : Rat) : pixelOf ⟨r.toNat, g.toNat, b.toNat⟩ q = ⟨r, g, b, narrowBright q⟩ := by
  simp only [pixelOf, narrowChan_toNat]

/-- A colour and a brightness in bounds are stored without loss (R87). -/
theorem pixelOf_of_ok {c : Colour} {q : Rat} (hc : colourOk c = true) (h0 : 0 ≤ q) (h1 : q ≤ 1) :
    ((pixelOf c q).r.toNat : Int) = c.red ∧ ((pixelOf c q).g.toNat : Int) = c.green ∧
      ((pixelOf c q).b.toNat : Int) = c.blue ∧ ((pixelOf c q).lvl.toNat : Int) = ⌊q * 31⌋ := by
  obtain ⟨hr, hg, hb⟩ := colourOk_iff.mp hc
  exact ⟨narrowChan_of_ok hr, narrowChan_of_ok hg, narrowChan_of_ok hb, narrowBright_toNat h0 h1⟩

/-- The fields of a pixel that stores a colour of bytes and a brightness in bounds. -/
theorem fields_of_stored {p : Pixel} {r g b : Byte} {q : Rat} (hp : p = ⟨r, g, b, narrowBright q⟩) (h0 : 0 ≤ q)
    (h1 : q ≤ 1) : p.r = r ∧ p.g = g ∧ p.b = b ∧ (p.lvl.toNat : Int) = ⌊q * 31⌋ := by
  subst hp
  exact ⟨rfl, rfl, rfl, narrowBright_toNat h0 h1⟩

/-! ## `getPixel` (R186) -/

/-- Packing loses no field (R24). -/
@[simp] theorem unpack_pack (p : Pixel) : Pixel.unpack p.pack = p := by
  have hpack : p.pack.toNat = p.lvl.toNat * 2 ^ 24 + p.b.toNat * 2 ^ 16 + p.g.toNat * 2 ^ 8 + p.r.toNat := by
    simp only [Pixel.pack, append_toNat]
    ring
  have hslice {n : Nat} (lo : Nat) (x : BitVec n) (h : p.pack.toNat / 2 ^ lo % 2 ^ n = x.toNat) :
      p.pack.extractLsb' lo n = x :=
    BitVec.eq_of_toNat_eq ((slice_toNat _ lo n).trans h)
  rw [Pixel.unpack, hslice 0 p.r (by omega), hslice 8 p.g (by omega), hslice 16 p.b (by omega),
    hslice 24 p.lvl (by omega)]

@[simp] theorem respData_respWord (c : Code) (d : Packed) : respData (respWord c d) = d :=
  BitVec.extractLsb'_append_eq_right

/-- What `getPixel` gives back for a stored pixel. -/
def Pixel.result (p : Pixel) : HostResult := .pixel p.r p.g p.b p.lvl ((p.lvl.toNat : Rat) / 31)

theorem giveBackPixel_rdpixState (i : Fin 8) (s : State) :
    giveBackPixel (rdpixState i s) = giveBack (s.readPix i).result (rdpixState i s) := by
  have hdata : (rdpixState i s).rspData = (s.readPix i).pack := respData_respWord .ok _
  rw [giveBackPixel, hdata, pixelResult, unpack_pack]
  rfl

theorem exec_getPixel (i : Fin 8) (s : State) :
    exec (.getPixel i.val) s = .next (giveBack (s.readPix i).result (rdpixState i s)) :=
  calc exec (.getPixel i.val) s
      = .next (giveBackPixel (rdpixState (narrowIndex i.val) s)) :=
        congrArg _ (checked_of_ok (firstError_index i.val) (indexOk_val i))
    _ = .next (giveBack (s.readPix i).result (rdpixState i s)) := by
        rw [narrowIndex_val, giveBackPixel_rdpixState]

/-- Settles O11: the response of `RDPIX` holds the packed pixel, and unpacking it loses nothing. -/
theorem getPixelGivesBackTheStoredPixel : Obligations.GetPixelGivesBackTheStoredPixel :=
  ⟨fun i s => ⟨_, exec_rdpix s i, exec_getPixel i s⟩,
    fun index _ h => congrArg _ (checked_of_not_ok (firstError_index index) (indexOk_eq_false_iff.mpr h))⟩

/-! ## `setPixel` (R172 to R174) -/

section setPixel
variable (i : Fin 8) (r g b : Byte) {index : Int} {c : Colour} {q : Rat} (s : State)

/-- In bounds both shapes write one pixel. -/
theorem exec_setPixel_of_ok (h0 : 0 ≤ q) (h1 : q ≤ 1) :
    exec (.setPixelRgbBrightness i.val r.toNat g.toNat b.toNat q) s =
        .next (giveBack .ok (wrpixState i ⟨r, g, b, narrowBright q⟩ s)) ∧
      exec (.setPixelColourBrightness i.val ⟨r.toNat, g.toNat, b.toNat⟩ q) s =
        .next (giveBack .ok (wrpixState i ⟨r, g, b, narrowBright q⟩ s)) := by
  have hok : (indexOk i.val && colourOk ⟨r.toNat, g.toNat, b.toNat⟩ && brightOk q) = true := by
    rw [indexOk_val, colourOk_toNat, brightOk_iff.mpr ⟨h0, h1⟩]
    rfl
  have hset : setPixelState i.val ⟨r.toNat, g.toNat, b.toNat⟩ q s =
      giveBack .ok (wrpixState i ⟨r, g, b, narrowBright q⟩ s) := by
    rw [setPixelState, checked_of_ok (firstError_setPixel _ _ _) hok, narrowIndex_val, pixelOf_toNat]
  exact ⟨congrArg _ hset, congrArg _ hset⟩

/-- Out of bounds both shapes raise. -/
theorem exec_setPixel_of_not_ok (h : indexOk index = false ∨ colourOk c = false ∨ brightOk q = false) :
    exec (.setPixelRgbBrightness index c.red c.green c.blue q) s = .next { s with ret := some (.raised .outOfRange) } ∧
      exec (.setPixelColourBrightness index c q) s = .next { s with ret := some (.raised .outOfRange) } := by
  have hset : setPixelState index c q s = { s with ret := some (.raised .outOfRange) } :=
    checked_of_not_ok (firstError_setPixel _ _ _) (by simpa only [Bool.and_eq_false_iff, or_assoc] using h)
  exact ⟨congrArg _ hset, congrArg _ hset⟩

/-- With channels and index in bounds both shapes without a brightness write one pixel. -/
theorem exec_setPixelDefault_of_ok :
    exec (.setPixelRgb i.val r.toNat g.toNat b.toNat) s =
        .next (giveBack .ok (wrpixState i ⟨r, g, b, narrowBright s.defb⟩ s)) ∧
      exec (.setPixelColour i.val ⟨r.toNat, g.toNat, b.toNat⟩) s =
        .next (giveBack .ok (wrpixState i ⟨r, g, b, narrowBright s.defb⟩ s)) := by
  have hok : (indexOk i.val && colourOk ⟨r.toNat, g.toNat, b.toNat⟩) = true := by
    rw [indexOk_val, colourOk_toNat]
    rfl
  have hset : setPixelDefaultState i.val ⟨r.toNat, g.toNat, b.toNat⟩ s =
      giveBack .ok (wrpixState i ⟨r, g, b, narrowBright s.defb⟩ s) := by
    rw [setPixelDefaultState, checked_of_ok (firstError_setPixelDefault _ _) hok, narrowIndex_val, pixelOf_toNat]
  exact ⟨congrArg _ hset, congrArg _ hset⟩

/-- Out of bounds both shapes without a brightness raise. -/
theorem exec_setPixelDefault_of_not_ok (h : indexOk index = false ∨ colourOk c = false) :
    exec (.setPixelRgb index c.red c.green c.blue) s = .next { s with ret := some (.raised .outOfRange) } ∧
      exec (.setPixelColour index c) s = .next { s with ret := some (.raised .outOfRange) } := by
  have hset : setPixelDefaultState index c s = { s with ret := some (.raised .outOfRange) } :=
    checked_of_not_ok (firstError_setPixelDefault _ _) (by simpa only [Bool.and_eq_false_iff] using h)
  exact ⟨congrArg _ hset, congrArg _ hset⟩

end setPixel

/-- What `getPixel` gives back for a pixel that stores a brightness in bounds (R186). -/
theorem result_of_stored {p : Pixel} {r g b : Byte} {q : Rat} (hp : p = ⟨r, g, b, narrowBright q⟩) (h0 : 0 ≤ q)
    (h1 : q ≤ 1) : p.result = .pixel r g b p.lvl ((⌊q * 31⌋ : Rat) / 31) := by
  subst hp
  rw [Pixel.result, ← narrowBright_toNat h0 h1, Int.cast_natCast]

/-- `setDefaultBrightness` changes no pixel, in bounds or out of bounds. -/
theorem exec_setDefaultBrightness_pix (q : Rat) (s : State) :
    ∃ t, exec (.setDefaultBrightness q) s = .next t ∧ t.pix = s.pix := by
  refine ⟨_, rfl, ?_⟩
  obtain ⟨-, hact⟩ | ⟨c, -, hraise⟩ :=
    checked_cases [chkBright q] (fun t => giveBack .ok { t with defb := q }) s
  · rw [hact, giveBack_pix]
  · rw [hraise]

/-- Settles O8: in bounds both shapes are one `WRPIX` and the result `OK`. -/
theorem setPixelWithBrightness : Obligations.SetPixelWithBrightness := by
  refine ⟨fun i r g b q s h0 h1 => ?inBounds, fun index c q s h => exec_setPixel_of_not_ok s ?outOfBounds⟩
  case inBounds =>
    obtain ⟨hrgb, hcolour⟩ := exec_setPixel_of_ok i r g b s h0 h1
    have hpix := readPix_wrpixState_self s i ⟨r, g, b, narrowBright q⟩
    obtain ⟨hr, hg, hb, hlvl⟩ := fields_of_stored hpix h0 h1
    exact ⟨_, hrgb, hcolour, hr, hg, hb, hlvl, fun _ hj => readPix_wrpixState_of_ne s _ hj, rfl, rfl,
      onlyPixRspRet_giveBack s _ _ _, congrArg (fun p => exec (.wrpix i r g b p.lvl) s) hpix, _,
      exec_getPixel i _, congrArg some (result_of_stored hpix h0 h1)⟩
  case outOfBounds =>
    simpa only [indexOk_eq_false_iff, colourOk_eq_false_iff, brightOk_eq_false_iff, or_assoc] using h

/-- Settles O9: as for O8, with the default brightness of the state the operation runs in. -/
theorem setPixelWithDefaultBrightness : Obligations.SetPixelWithDefaultBrightness := by
  refine ⟨fun i r g b s h0 h1 => ?inBounds, fun index c s h => exec_setPixelDefault_of_not_ok s ?outOfBounds⟩
  case inBounds =>
    obtain ⟨hrgb, hcolour⟩ := exec_setPixelDefault_of_ok i r g b s
    have hpix := readPix_wrpixState_self s i ⟨r, g, b, narrowBright s.defb⟩
    obtain ⟨hr, hg, hb, hlvl⟩ := fields_of_stored hpix h0 h1
    exact ⟨_, hrgb, hcolour, hr, hg, hb, hlvl, fun _ hj => readPix_wrpixState_of_ne s _ hj, rfl, rfl,
      onlyPixRspRet_giveBack s _ _ _, congrArg (fun p => exec (.wrpix i r g b p.lvl) s) hpix,
      fun q => exec_setDefaultBrightness_pix q _⟩
  case outOfBounds =>
    simpa only [indexOk_eq_false_iff, colourOk_eq_false_iff, or_assoc] using h

/-! ## Clearing (R175, R176, R187) -/

theorem exec_clearPixel (i : Fin 8) (s : State) :
    exec (.clearPixel i.val) s = .next (giveBack .ok (wrpixState i Pixel.zero s)) :=
  calc exec (.clearPixel i.val) s
      = .next (giveBack .ok (clrpixState (narrowIndex i.val) s)) :=
        congrArg _ (checked_of_ok (firstError_index i.val) (indexOk_val i))
    _ = .next (giveBack .ok (wrpixState i Pixel.zero s)) := by
        rw [narrowIndex_val]
        rfl

theorem exec_clearAll (s : State) : exec .clearAll s = .next (giveBack .ok (fillState Pixel.zero s)) := rfl

/-- Settles O10: `clearPixel` writes `Pixel.zero`, `clearAll` fills with it, and `reset()` sets `DEFB` besides. -/
theorem clearingOperations : Obligations.ClearingOperations :=
  ⟨fun i s => ⟨_, exec_clearPixel i s, readPix_wrpixState_self s i _, fun _ hj => readPix_wrpixState_of_ne s _ hj, rfl,
      rfl, onlyPixRspRet_giveBack s _ _ _, exec_clrpix s i⟩,
    fun index _ h => congrArg _ (checked_of_not_ok (firstError_index index) (indexOk_eq_false_iff.mpr h)),
    fun s => ⟨_, exec_clearAll s, fun i => readPix_fillState s i _, rfl, rfl, onlyPixRspRet_giveBack s _ _ _,
      exec_clrall s, rfl⟩⟩

/-! ## The default brightness (R184, R185) -/

theorem exec_setDefaultBrightness_of_ok {q : Rat} (h : brightOk q = true) (s : State) :
    exec (.setDefaultBrightness q) s = .next { s with defb := q, ret := some .ok } :=
  congrArg _ (checked_of_ok (firstError_bright q) h)

theorem exec_getDefaultBrightness (s : State) :
    exec .getDefaultBrightness s = .next { s with ret := some (.brightness s.defb) } := rfl

/-- Settles O17: the value is stored as it is after its one check. -/
theorem defaultBrightnessIsStoredExactly : Obligations.DefaultBrightnessIsStoredExactly := by
  refine ⟨fun q s h0 h1 => ?_,
    fun q _ h => congrArg _ (checked_of_not_ok (firstError_bright q) (brightOk_eq_false_iff.mpr h)),
    exec_getDefaultBrightness⟩
  have hset := exec_setDefaultBrightness_of_ok (brightOk_iff.mpr ⟨h0, h1⟩) s
  exact ⟨hset, by rw [execAll_pair hset, exec_getDefaultBrightness]⟩

/-! ## `setAll` (R177) -/

section setAll
variable {c : Colour} {q : Rat} (s : State)

theorem exec_setAll_of_ok (h : (colourOk c && brightOk q) = true) :
    exec (.setAll c.red c.green c.blue q) s = .next (giveBack .ok (fillState (pixelOf c q) s)) :=
  congrArg _ (checked_of_ok (firstError_setAll c q) h)

theorem exec_setAll_of_not_ok (h : (colourOk c && brightOk q) = false) :
    exec (.setAll c.red c.green c.blue q) s = .next { s with ret := some (.raised .outOfRange) } :=
  congrArg _ (checked_of_not_ok (firstError_setAll c q) h)

end setAll

/-- Settles O12: in bounds it is one `FILL` and the result `OK`. -/
theorem setAllWritesEveryPixel : Obligations.SetAllWritesEveryPixel := by
  refine ⟨fun r g b q s h0 h1 => ?inBounds, fun c q s h => exec_setAll_of_not_ok s ?outOfBounds⟩
  case inBounds =>
    have hok : (colourOk ⟨r.toNat, g.toNat, b.toNat⟩ && brightOk q) = true := by
      rw [colourOk_toNat, brightOk_iff.mpr ⟨h0, h1⟩]
      rfl
    have hset := exec_setAll_of_ok s hok
    rw [pixelOf_toNat] at hset
    have hpix := fun i => readPix_fillState s i ⟨r, g, b, narrowBright q⟩
    exact ⟨_, hset, fun i => fields_of_stored (hpix i) h0 h1, rfl, rfl, onlyPixRspRet_giveBack s _ _ _,
      congrArg (fun p => exec (.fill r g b p.lvl) s) (hpix 0)⟩
  case outOfBounds =>
    simpa only [Bool.and_eq_false_iff, colourOk_eq_false_iff, brightOk_eq_false_iff, or_assoc] using h

end Sys2Proof.Machine
end

section
/-! The operations on the whole buffer: gradients (R179 to R182) and lists (R183). -/

namespace Sys2Proof.Machine

/-! ## The pixels of a gradient (R180, R181) -/

section gradChan
variable {s e : Int}

/-- A channel that is the same at both ends is that all along. -/
@[simp] theorem gradChan_self (c : Int) (i : Nat) : gradChan c c i = c := by
  rw [gradChan, lerp_self]
  exact Int.floor_intCast (R := Rat) c

@[simp] theorem gradChan_zero (s e : Int) : gradChan s e 0 = s := by
  rw [gradChan, lerp_zero]
  exact Int.floor_intCast (R := Rat) s

@[simp] theorem gradChan_seven (s e : Int) : gradChan s e 7 = e := by
  rw [gradChan, lerp_seven]
  exact Int.floor_intCast (R := Rat) e

theorem gradChan_mono (h : s ≤ e) {i j : Nat} (hij : i ≤ j) : gradChan s e i ≤ gradChan s e j :=
  Int.floor_le_floor (lerp_mono (Int.cast_le.mpr h) hij)

/-- Between channels in bounds every channel of the gradient is in bounds. -/
theorem chanOk_gradChan (hs : chanOk s = true) (he : chanOk e = true) {i : Nat} (hi : i ≤ 7) :
    chanOk (gradChan s e i) = true := by
  have hrat {c : Int} (h : chanOk c = true) : ((0 : Int) : Rat) ≤ c ∧ (c : Rat) ≤ (255 : Int) := by
    exact_mod_cast chanOk_iff.mp h
  obtain ⟨hlow, hhigh⟩ := lerp_mem (hrat hs) (hrat he) hi
  refine chanOk_iff.mpr ⟨Int.le_floor.mpr hlow, ?_⟩
  exact (Int.floor_le_floor hhigh).trans_eq (Int.floor_intCast 255)

/-- The integer form for channels that are bytes. -/
theorem gradChan_toNat (x y : Byte) {i : Nat} (hi : i ≤ 7) :
    gradChan x.toNat y.toNat i = ((x.toNat * (7 - i) + y.toNat * i) / 7 : Nat) := by
  rw [gradChan_eq]
  push_cast [hi]
  rfl

end gradChan

section gradPixel
variable {c0 c1 : Colour} {q0 q1 : Rat}

@[simp] theorem gradColour_self (c : Colour) (i : Nat) : gradColour c c i = c := by
  simp only [gradColour, gradChan_self]

@[simp] theorem gradPixel_self (c : Colour) (q : Rat) (i : Nat) : gradPixel c c q q i = pixelOf c q := by
  rw [gradPixel, gradColour_self, lerp_self]

theorem gradPixel_zero : gradPixel c0 c1 q0 q1 0 = pixelOf c0 q0 := by
  simp only [gradPixel, gradColour, gradChan_zero, lerp_zero]

theorem gradPixel_seven : gradPixel c0 c1 q0 q1 7 = pixelOf c1 q1 := by
  simp only [gradPixel, gradColour, gradChan_seven, lerp_seven]

theorem colourOk_gradColour (h0 : colourOk c0 = true) (h1 : colourOk c1 = true) {i : Nat} (hi : i ≤ 7) :
    colourOk (gradColour c0 c1 i) = true := by
  obtain ⟨hr0, hg0, hb0⟩ := colourOk_iff.mp h0
  obtain ⟨hr1, hg1, hb1⟩ := colourOk_iff.mp h1
  exact colourOk_iff.mpr ⟨chanOk_gradChan hr0 hr1 hi, chanOk_gradChan hg0 hg1 hi, chanOk_gradChan hb0 hb1 hi⟩

/-- Pixel i of a gradient between operands in bounds stores its colour and brightness without loss. -/
theorem gradPixel_of_ok (hc0 : colourOk c0 = true) (hc1 : colourOk c1 = true) (h0 : 0 ≤ q0 ∧ q0 ≤ 1)
    (h1 : 0 ≤ q1 ∧ q1 ≤ 1) {i : Nat} (hi : i ≤ 7) :
    ((gradPixel c0 c1 q0 q1 i).r.toNat : Int) = gradChan c0.red c1.red i ∧
      ((gradPixel c0 c1 q0 q1 i).g.toNat : Int) = gradChan c0.green c1.green i ∧
      ((gradPixel c0 c1 q0 q1 i).b.toNat : Int) = gradChan c0.blue c1.blue i ∧
      ((gradPixel c0 c1 q0 q1 i).lvl.toNat : Int) = ⌊lerp q0 q1 i * 31⌋ := by
  obtain ⟨hlow, hhigh⟩ := lerp_mem h0 h1 hi
  exact pixelOf_of_ok (colourOk_gradColour hc0 hc1 hi) hlow hhigh

end gradPixel

/-! ## `setGradient` -/

/-- Element i of eight pixels, one for each index. -/
theorem octet_getElem (f : Fin 8 → Pixel) (i : Fin 8) : #v[f 0, f 1, f 2, f 3, f 4, f 5, f 6, f 7][i] = f i := by
  fin_cases i <;> rfl

section setGradient
variable {c0 c1 : Colour} {q0 q1 : Rat} (s : State)

theorem exec_setGradient_of_ok (hc0 : colourOk c0 = true) (hc1 : colourOk c1 = true) (h0 : 0 ≤ q0 ∧ q0 ≤ 1)
    (h1 : 0 ≤ q1 ∧ q1 ≤ 1) :
    ∃ v : Vector Pixel 8, (∀ i : Fin 8, v[i] = gradPixel c0 c1 q0 q1 i.val) ∧
      exec (.setGradient c0 c1 q0 q1) s =
        .next (giveBack .ok { s with pix := v, rsp := some (respWord .ok 0) }) := by
  have hok : (colourOk c0 && colourOk c1 && brightOk q0 && brightOk q1) = true := by
    rw [hc0, hc1, brightOk_iff.mpr h0, brightOk_iff.mpr h1]
    rfl
  refine ⟨_, octet_getElem fun i => gradPixel c0 c1 q0 q1 i.val, ?_⟩
  calc exec (.setGradient c0 c1 q0 q1) s
      = .next (giveBack .ok (writePixels (allIdx.map fun i => (i, gradPixel c0 c1 q0 q1 i.val)) s)) :=
        congrArg _ (checked_of_ok (firstError_gradient c0 c1 q0 q1) hok)
    _ = _ := by rw [writePixels_map fun i => gradPixel c0 c1 q0 q1 i.val]

theorem exec_setGradient_of_not_ok (h : (colourOk c0 && colourOk c1 && brightOk q0 && brightOk q1) = false) :
    exec (.setGradient c0 c1 q0 q1) s = .next { s with ret := some (.raised .outOfRange) } :=
  congrArg _ (checked_of_not_ok (firstError_gradient c0 c1 q0 q1) h)

end setGradient

/-- Settles O14: the channels have the integer form, the level is that of the interpolated brightness. -/
theorem gradientWritesTheInterpolatedPixels : Obligations.GradientWritesTheInterpolatedPixels := by
  refine ⟨fun r0 g0 b0 r1 g1 b1 q0 q1 s hq0 hq0' hq1 hq1' => ?inBounds, fun c0 c1 q0 q1 s h => ?outOfBounds⟩
  case inBounds =>
    have hc0 := colourOk_toNat r0 g0 b0
    have hc1 := colourOk_toNat r1 g1 b1
    obtain ⟨v, hv, hexec⟩ := exec_setGradient_of_ok s hc0 hc1 ⟨hq0, hq0'⟩ ⟨hq1, hq1'⟩
    refine ⟨_, hexec, fun i => ?_, rfl, rfl, onlyPixRspRet_giveBack s v _ _⟩
    have hi : i.val ≤ 7 := Nat.le_of_lt_succ i.isLt
    obtain ⟨hr, hg, hb, hlvl⟩ := gradPixel_of_ok hc0 hc1 ⟨hq0, hq0'⟩ ⟨hq1, hq1'⟩ hi
    have hlevel : lerp q0 q1 i * 31 = 31 * (q0 * (7 - (i.val : Rat)) + q1 * (i.val : Rat)) / 7 := by
      rw [lerp_eq_weighted]
      ring
    rw [giveBack_pix, hv, ← hlevel]
    rw [gradChan_toNat _ _ hi, Nat.cast_inj] at hr hg hb
    exact ⟨hr, hg, hb, hlvl⟩
  case outOfBounds =>
    refine exec_setGradient_of_not_ok s (Bool.eq_false_iff.mpr fun hok => h ?_)
    simpa only [Bool.and_eq_true, brightOk_iff, and_assoc] using hok

/-- The flat gradient is one fill: its eight writes are of one pixel, and its checks are those of `setAll`. -/
theorem exec_setGradientFlat (c : Colour) (q : Rat) (s : State) :
    exec (.setGradientFlat c q) s = exec (.setAll c.red c.green c.blue q) s := by
  cases hok : colourOk c && brightOk q with
  | true =>
    obtain ⟨hc, hq⟩ := Bool.and_eq_true_iff.mp hok
    obtain ⟨v, hv, hexec⟩ := exec_setGradient_of_ok s hc hc (brightOk_iff.mp hq) (brightOk_iff.mp hq)
    have hfill : v = Vector.replicate 8 (pixelOf c q) :=
      Vector.ext fun i hi => (hv ⟨i, hi⟩).trans ((gradPixel_self c q i).trans (Vector.getElem_replicate hi).symm)
    rw [hfill] at hexec
    exact hexec.trans (exec_setAll_of_ok s hok).symm
  | false =>
    have hchecks : (colourOk c && colourOk c && brightOk q && brightOk q) = false := by
      rwa [Bool.and_self, Bool.and_assoc, Bool.and_self]
    exact (exec_setGradient_of_not_ok s hchecks).trans (exec_setAll_of_not_ok s hok).symm

/-- Settles O15: the collapsing forms are the canonical form by definition, and the flat one is a fill. -/
theorem gradientCollapsingForms : Obligations.GradientCollapsingForms :=
  fun c _ _ q _ _ s => ⟨rfl, rfl, rfl, exec_setGradientFlat c q s⟩

end Sys2Proof.Machine
end

section
/-! `setAllPixels` in both forms (R183): the lengths are checked first, then the elements, and element i goes to pixel i. -/

namespace Sys2Proof.Machine

/-! ## The checks of a list operation (R212, R215) -/

section checks
variable {cs : List Colour} {qs : List Rat}

theorem chkLen_of_length {α : Type} {xs : List α} (h : xs.length = 8) : chkLen xs = none := if_neg (not_not.mpr h)

theorem chkLen_of_length_ne {α : Type} {xs : List α} (h : xs.length ≠ 8) : chkLen xs = some .lengthMismatch :=
  if_pos h

/-- With right lengths the elements decide. -/
theorem firstError_setAllPixelsList (hcs : cs.length = 8) (hqs : qs.length = 8) :
    firstError ([chkLen cs, chkLen qs] ++ cs.flatMap chkColour ++ qs.map chkBright) =
      if cs.all colourOk && qs.all brightOk then none else some .outOfRange := by
  rw [chkLen_of_length hcs, chkLen_of_length hqs, firstError_append, firstError_append, firstError_colours,
    firstError_brights]
  cases cs.all colourOk <;> cases qs.all brightOk <;> rfl

/-- A wrong length comes before every element. -/
theorem firstError_setAllPixelsList_of_length_ne (h : cs.length ≠ 8 ∨ qs.length ≠ 8) :
    firstError ([chkLen cs, chkLen qs] ++ cs.flatMap chkColour ++ qs.map chkBright) = some .lengthMismatch := by
  by_cases hcs : cs.length = 8
  · rw [chkLen_of_length hcs, chkLen_of_length_ne (h.resolve_left (not_not.mpr hcs))]
    rfl
  · rw [chkLen_of_length_ne hcs]
    rfl

theorem firstError_setAllPixelsScalar (hcs : cs.length = 8) (q : Rat) :
    firstError ([chkLen cs] ++ cs.flatMap chkColour ++ [chkBright q]) =
      if cs.all colourOk && brightOk q then none else some .outOfRange := by
  rw [chkLen_of_length hcs, firstError_append, firstError_append, firstError_colours, firstError_bright]
  cases cs.all colourOk <;> cases brightOk q <;> rfl

theorem firstError_setAllPixelsScalar_of_length_ne (h : cs.length ≠ 8) (q : Rat) :
    firstError ([chkLen cs] ++ cs.flatMap chkColour ++ [chkBright q]) = some .lengthMismatch := by
  rw [chkLen_of_length_ne h]
  rfl

end checks

/-! ## The pixels of two lists -/

section pixels
variable {cs : List Colour} {qs : List Rat}

/-- One brightness for every pixel is that brightness eight times. -/
theorem listPixels_replicate (hcs : cs.length = 8) (q : Rat) :
    listPixels cs (List.replicate 8 q) = allIdx.zip (cs.map fun c => pixelOf c q) := by
  have hzip : cs.zip (List.replicate 8 q) = cs.map fun c => (c, q) := by
    rw [List.map_prod_left_eq_zip, List.map_const', hcs]
  rw [listPixels, hzip, List.map_map]
  rfl

/-- Pixel i after the writes of two lists is element i of each. -/
theorem writePixels_listPixels (hcs : cs.length = 8) (hqs : qs.length = 8) (s : State) :
    ∃ v : Vector Pixel 8,
      (∀ (i : Fin 8) (c : Colour) (q : Rat), cs[i.val]? = some c → qs[i.val]? = some q → v[i] = pixelOf c q) ∧
        writePixels (listPixels cs qs) s = { s with pix := v, rsp := some (respWord .ok 0) } := by
  have hlen : ((cs.zip qs).map fun cq => pixelOf cq.1 cq.2).length = 8 := by simp [hcs, hqs]
  refine ⟨_, fun i c q hc hq => ?_, writePixels_zip _ hlen s⟩
  have hzip : (cs.zip qs)[i.val]? = some (c, q) := List.getElem?_zip_eq_some.mpr ⟨hc, hq⟩
  have hmap : ((cs.zip qs).map fun cq => pixelOf cq.1 cq.2)[i.val]? = some (pixelOf c q) := by
    rw [List.getElem?_map, hzip]
    rfl
  exact (List.getElem_eq_iff _).mpr hmap

end pixels

/-! ## The operation -/

section setAllPixels
variable {cs : List Colour} {qs : List Rat} {q : Rat} (s : State)

theorem exec_setAllPixelsList_of_ok (hcs : cs.length = 8) (hqs : qs.length = 8)
    (h : (cs.all colourOk && qs.all brightOk) = true) :
    exec (.setAllPixelsList cs qs) s = .next (giveBack .ok (writePixels (listPixels cs qs) s)) :=
  congrArg _ (checked_of_ok (firstError_setAllPixelsList hcs hqs) h)

theorem exec_setAllPixelsScalar_of_ok (hcs : cs.length = 8) (h : (cs.all colourOk && brightOk q) = true) :
    exec (.setAllPixelsScalar cs q) s =
      .next (giveBack .ok (writePixels (listPixels cs (List.replicate 8 q)) s)) := by
  rw [listPixels_replicate hcs]
  exact congrArg _ (checked_of_ok (firstError_setAllPixelsScalar hcs q) h)

theorem exec_setAllPixelsList_of_length_ne (h : cs.length ≠ 8 ∨ qs.length ≠ 8) :
    exec (.setAllPixelsList cs qs) s = .next { s with ret := some (.raised .lengthMismatch) } :=
  congrArg _ (checked_some _ s (firstError_setAllPixelsList_of_length_ne h))

theorem exec_setAllPixelsScalar_of_length_ne (h : cs.length ≠ 8) :
    exec (.setAllPixelsScalar cs q) s = .next { s with ret := some (.raised .lengthMismatch) } :=
  congrArg _ (checked_some _ s (firstError_setAllPixelsScalar_of_length_ne h q))

theorem exec_setAllPixelsList_of_not_ok (hcs : cs.length = 8) (hqs : qs.length = 8)
    (h : (cs.all colourOk && qs.all brightOk) = false) :
    exec (.setAllPixelsList cs qs) s = .next { s with ret := some (.raised .outOfRange) } :=
  congrArg _ (checked_of_not_ok (firstError_setAllPixelsList hcs hqs) h)

theorem exec_setAllPixelsScalar_of_not_ok (hcs : cs.length = 8) (h : (cs.all colourOk && brightOk q) = false) :
    exec (.setAllPixelsScalar cs q) s = .next { s with ret := some (.raised .outOfRange) } :=
  congrArg _ (checked_of_not_ok (firstError_setAllPixelsScalar hcs q) h)

end setAllPixels

theorem all_colourOk_eq_false_iff {cs : List Colour} : cs.all colourOk = false ↔ ∃ c ∈ cs, colourOk c = false := by
  simp only [List.all_eq_false, Bool.not_eq_true]

theorem all_brightOk_eq_false_iff {qs : List Rat} : qs.all brightOk = false ↔ ∃ q ∈ qs, q < 0 ∨ 1 < q := by
  simp only [List.all_eq_false, Bool.not_eq_true, brightOk_eq_false_iff]

theorem all_brightOk_iff {qs : List Rat} : qs.all brightOk = true ↔ ∀ q ∈ qs, 0 ≤ q ∧ q ≤ 1 := by
  simp only [List.all_eq_true, brightOk_iff]

/-- Settles O16: the checks decide between the two errors and the writes; the two forms write the same list. -/
theorem setAllPixelsWritesElementByElement : Obligations.SetAllPixelsWritesElementByElement := by
  refine ⟨fun cs qs s hcs hqs hc hq => ?list, fun cs q s hcs hc h0 h1 => ?scalar,
    fun cs qs s h => exec_setAllPixelsList_of_length_ne s h, fun cs q s h => exec_setAllPixelsScalar_of_length_ne s h,
    fun cs qs s hcs hqs h => exec_setAllPixelsList_of_not_ok s hcs hqs ?listRange,
    fun cs q s hcs h => exec_setAllPixelsScalar_of_not_ok s hcs ?scalarRange⟩
  case list =>
    have hok : (cs.all colourOk && qs.all brightOk) = true :=
      Bool.and_eq_true_iff.mpr ⟨List.all_eq_true.mpr hc, all_brightOk_iff.mpr hq⟩
    obtain ⟨v, hv, hwrite⟩ := writePixels_listPixels hcs hqs s
    have hexec := exec_setAllPixelsList_of_ok s hcs hqs hok
    rw [hwrite] at hexec
    refine ⟨_, hexec, fun i c q hci hqi => ?_, rfl, rfl, onlyPixRspRet_giveBack s v _ _⟩
    obtain ⟨h0, h1⟩ := hq q (List.mem_of_getElem? hqi)
    rw [giveBack_pix, hv i c q hci hqi]
    exact pixelOf_of_ok (hc c (List.mem_of_getElem? hci)) h0 h1
  case scalar =>
    have hcs' : cs.all colourOk = true := List.all_eq_true.mpr hc
    have hqs : (List.replicate 8 q).all brightOk = true :=
      all_brightOk_iff.mpr fun p hp => List.eq_of_mem_replicate hp ▸ ⟨h0, h1⟩
    rw [exec_setAllPixelsScalar_of_ok s hcs (Bool.and_eq_true_iff.mpr ⟨hcs', brightOk_iff.mpr ⟨h0, h1⟩⟩),
      exec_setAllPixelsList_of_ok s hcs List.length_replicate (Bool.and_eq_true_iff.mpr ⟨hcs', hqs⟩)]
  case listRange =>
    rwa [Bool.and_eq_false_iff, all_colourOk_eq_false_iff, all_brightOk_eq_false_iff]
  case scalarRange =>
    rwa [Bool.and_eq_false_iff, all_colourOk_eq_false_iff, brightOk_eq_false_iff]

end Sys2Proof.Machine
end

section
/-! The testable properties of the document (R192), each from the rule of its operation. -/

namespace Sys2Proof.Machine

/-! ## The gradient from black to white -/

theorem pixelOf_black : pixelOf ⟨0, 0, 0⟩ 0 = ⟨0, 0, 0, 0⟩ := by decide +kernel

theorem pixelOf_white : pixelOf ⟨255, 255, 255⟩ 1 = ⟨255, 255, 255, 31⟩ := by decide +kernel

/-- Between end points that rise in each field, every field of a gradient is non-decreasing. -/
theorem gradPixel_mono {c0 c1 : Colour} {q0 q1 : Rat} (hc0 : colourOk c0 = true) (hc1 : colourOk c1 = true)
    (h0 : 0 ≤ q0 ∧ q0 ≤ 1) (h1 : 0 ≤ q1 ∧ q1 ≤ 1) (hr : c0.red ≤ c1.red) (hg : c0.green ≤ c1.green)
    (hb : c0.blue ≤ c1.blue) (hq : q0 ≤ q1) {i j : Nat} (hij : i ≤ j) (hj : j ≤ 7) :
    (gradPixel c0 c1 q0 q1 i).r ≤ (gradPixel c0 c1 q0 q1 j).r ∧
      (gradPixel c0 c1 q0 q1 i).g ≤ (gradPixel c0 c1 q0 q1 j).g ∧
      (gradPixel c0 c1 q0 q1 i).b ≤ (gradPixel c0 c1 q0 q1 j).b ∧
      (gradPixel c0 c1 q0 q1 i).lvl ≤ (gradPixel c0 c1 q0 q1 j).lvl := by
  obtain ⟨hri, hgi, hbi, hli⟩ := gradPixel_of_ok hc0 hc1 h0 h1 (hij.trans hj)
  obtain ⟨hrj, hgj, hbj, hlj⟩ := gradPixel_of_ok hc0 hc1 h0 h1 hj
  have hr' := gradChan_mono hr hij
  have hg' := gradChan_mono hg hij
  have hb' := gradChan_mono hb hij
  have hl' := quantise_mono (lerp_mono hq hij)
  rw [quantise_eq, quantise_eq] at hl'
  simp only [BitVec.le_def]
  omega

/-! ## The frame of a `transmit()` -/

/-- The last 73 line operations of a frame are the latch. -/
theorem frameOps_latch (pix : Vector Pixel 8) : (frameOps pix).drop 864 = latchOps := by
  have hlen := frameOps_length pix
  rw [frameOps_eq_cells, List.length_append, latchOps_length] at hlen
  rw [frameOps_eq_cells]
  exact List.drop_left' (Nat.add_right_cancel hlen)

/-! ## The obligation -/

/-- Settles O20: each property is a case of the rule of its operation. -/
theorem conformanceProperties : Obligations.ConformanceProperties := by
  refine ⟨fun i r g b q s h0 h1 => ?a, fun i s => ?b, fun r g b s => ?c, fun s => ?d, fun cs qs q s hcs => ?e,
    fun r g b q s => ?f, fun s h3 hperformed => ?g⟩
  case a =>
    obtain ⟨hset, -⟩ := exec_setPixel_of_ok i r g b s h0 h1
    have hpix := readPix_wrpixState_self s i ⟨r, g, b, narrowBright q⟩
    exact ⟨_, _, (execAll_pair hset).trans (exec_getPixel i _),
      congrArg some ((congrArg Pixel.result hpix).trans (result_of_stored rfl h0 h1)), narrowBright_toNat h0 h1⟩
  case b =>
    have hpix := readPix_fillState s i Pixel.zero
    have hresult : Pixel.zero.result = .pixel 0 0 0 0 0 := by decide +kernel
    exact ⟨_, (execAll_pair (exec_clearAll s)).trans (exec_getPixel i _),
      congrArg some ((congrArg Pixel.result hpix).trans hresult)⟩
  case c =>
    have hlevel : narrowBright (1 / 2) = 15 := by rw [narrowBright, quantise_half]; rfl
    have hc := colourOk_toNat r g b
    have hq : (0 : Rat) ≤ 1 / 2 ∧ (1 / 2 : Rat) ≤ 1 := by norm_num
    obtain ⟨v, hv, hexec⟩ := exec_setGradient_of_ok s hc hc hq hq
    refine ⟨_, hexec, fun i => ?_⟩
    rw [giveBack_pix, hv, gradPixel_self, pixelOf_toNat, hlevel]
  case d =>
    have hblack : colourOk ⟨0, 0, 0⟩ = true := rfl
    have hwhite : colourOk ⟨255, 255, 255⟩ = true := rfl
    have hdark : (0 : Rat) ≤ 0 ∧ (0 : Rat) ≤ 1 := by norm_num
    have hfull : (0 : Rat) ≤ 1 ∧ (1 : Rat) ≤ 1 := by norm_num
    obtain ⟨v, hv, hexec⟩ := exec_setGradient_of_ok s hblack hwhite hdark hfull
    refine ⟨_, hexec, (hv 0).trans (gradPixel_zero.trans pixelOf_black),
      (hv 7).trans (gradPixel_seven.trans pixelOf_white), fun i j hij => ?_⟩
    have hle : (0 : Int) ≤ 255 := by decide
    rw [giveBack_pix, hv, hv]
    exact gradPixel_mono hblack hwhite hdark hfull hle hle hle hdark.2 hij (Nat.le_of_lt_succ j.isLt)
  case e =>
    have hne : cs.length ≠ 8 := by omega
    exact ⟨exec_setAllPixelsScalar_of_length_ne s hne, exec_setAllPixelsList_of_length_ne s (.inl hne)⟩
  case f =>
    exact ⟨(exec_setPixel_of_not_ok (c := ⟨r, g, b⟩) s (.inl rfl)).1,
      (exec_setPixel_of_not_ok (c := ⟨r, g, b⟩) s (.inl rfl)).1⟩
  case g =>
    obtain ⟨-, htransmit, -⟩ := transmitSendsTheWholeFrame s hperformed
    have hpacket := frameOps_packet s.pix 3
    rw [h3] at hpacket
    exact ⟨_, _, htransmit, rfl, hpacket, frameOps_latch s.pix⟩

end Sys2Proof.Machine
end

section
/-! The validation errors (R211, R212): every host-layer operation is its checks and then an action (R171). The first
error of the checks is `LengthMismatch` if a length is wrong, `OutOfRange` if only an operand is out of bounds (R215), and
none for a well-formed call; no action ends in either of them. -/

namespace Sys2Proof

/-- The validation error of a call, if it is ill-formed: a wrong length before an operand out of bounds (R215). -/
def Instr.validationError (i : Instr) : Option Machine.Code :=
  if i.lengthsOk then if i.operandsOk then none else some .outOfRange else some .lengthMismatch

section validationError
variable {i : Instr}

theorem Instr.validationError_of_lengthsOk (h : i.lengthsOk = true) :
    i.validationError = if i.operandsOk then none else some .outOfRange := if_pos h

theorem Instr.validationError_of_lengths_wrong (h : i.lengthsOk = false) :
    i.validationError = some .lengthMismatch := if_neg (Bool.eq_false_iff.mp h)

theorem Instr.validationError_of_wf (h : i.wf = true) : i.validationError = none := by
  obtain ⟨hlengths, hoperands⟩ := Bool.and_eq_true_iff.mp h
  rw [validationError_of_lengthsOk hlengths, if_pos hoperands]

theorem Instr.validationError_of_not_wf (h : i.wf = false) :
    i.validationError = some (if i.lengthsOk = true then .outOfRange else .lengthMismatch) := by
  cases hlengths : i.lengthsOk with
  | true =>
    have hoperands : i.operandsOk = false := by rwa [wf, hlengths, Bool.true_and] at h
    rw [validationError_of_lengthsOk hlengths, hoperands]
    rfl
  | false => exact validationError_of_lengths_wrong hlengths

/-- A command and a wire item have exact-width fields and no check (R21, R58): only host-layer calls are ill-formed. -/
theorem Instr.layer_host_of_not_wf (h : i.wf = false) : i.layer = .host := by
  cases i with
  | wrpix | clrpix | clrall | fill | rdpix | tx | preamble | pixelPacket | latch => cases h
  | _ => rfl

end validationError

end Sys2Proof

namespace Sys2Proof.Machine

/-! ## Checks first, then an action (R171) -/

/-- The result of the last host-layer call is neither validation error. -/
def State.NoValidationError (s : State) : Prop :=
  s.ret ≠ some (.raised .outOfRange) ∧ s.ret ≠ some (.raised .lengthMismatch)

/-- The instruction raises its validation error, if it has one, and does nothing else; or it acts, and the action raises
neither. -/
def ChecksThenActs (i : Instr) : Prop :=
  ∃ (checks : List (Option Code)) (act : State → State), firstError checks = i.validationError ∧
    ∀ s, exec i s = .next (checked checks act s) ∧ (act s).NoValidationError

section checksThenActs
variable {i j : Instr}

theorem ChecksThenActs.exec_of_not_wf (h : ChecksThenActs i) (hwf : i.wf = false) (s : State) :
    exec i s =
      .next { s with ret := some (.raised (if i.lengthsOk = true then .outOfRange else .lengthMismatch)) } := by
  obtain ⟨checks, act, hchecks, hexec⟩ := h
  rw [(hexec s).1, checked_some act s (hchecks.trans (i.validationError_of_not_wf hwf))]

theorem ChecksThenActs.exec_of_wf (h : ChecksThenActs i) (hwf : i.wf = true) (s : State) :
    ∃ t, exec i s = .next t ∧ t.NoValidationError := by
  obtain ⟨checks, act, hchecks, hexec⟩ := h
  obtain ⟨hrun, hret⟩ := hexec s
  rw [checked_none act s (hchecks.trans (i.validationError_of_wf hwf))] at hrun
  exact ⟨act s, hrun, hret⟩

section action
variable {checks : List (Option Code)} {act : State → State} (hexec : ∀ s, exec i s = .next (checked checks act s))
  (hret : ∀ s c, (act s).ret ≠ some (.raised c))
include hexec hret

/-- An operation that checks its lengths before its operands, and whose action gives back a result that is no error. -/
theorem ChecksThenActs.of_lengths
    (hright : i.lengthsOk = true → firstError checks = if i.operandsOk then none else some .outOfRange)
    (hwrong : i.lengthsOk = false → firstError checks = some .lengthMismatch) : ChecksThenActs i := by
  refine ⟨checks, act, ?_, fun s => ⟨hexec s, hret s _, hret s _⟩⟩
  cases h : i.lengthsOk with
  | true => exact (hright h).trans (i.validationError_of_lengthsOk h).symm
  | false => exact (hwrong h).trans (i.validationError_of_lengths_wrong h).symm

/-- The same for an operation that takes no array (R212). -/
theorem ChecksThenActs.of_operands (hlengths : i.lengthsOk = true)
    (hchecks : firstError checks = if i.operandsOk then none else some .outOfRange) : ChecksThenActs i :=
  .of_lengths hexec hret (fun _ => hchecks) fun h => absurd hlengths (Bool.eq_false_iff.mp h)

end action

/-- Two shapes of one operation, with the same conditions on their operands (R174, R182). -/
theorem ChecksThenActs.of_same (h : ChecksThenActs j) (hexec : ∀ s, exec i s = exec j s)
    (hlengths : i.lengthsOk = j.lengthsOk) (hoperands : i.operandsOk = j.operandsOk) : ChecksThenActs i := by
  obtain ⟨checks, act, hchecks, hact⟩ := h
  have herror : i.validationError = j.validationError := by
    rw [Instr.validationError, hlengths, hoperands]
    rfl
  exact ⟨checks, act, hchecks.trans herror.symm, fun s => ⟨(hexec s).trans (hact s).1, (hact s).2⟩⟩

end checksThenActs

/-! ## `transmit()` raises `IoFailure` at most (R188, R213) -/

/-- The next k line operations are all performed, or one of them is the first to fail. -/
theorem allPerformed_or_firstFailure (s : State) (k : Nat) :
    s.allPerformed k ∨ ∃ f < k, ∃ took, s.firstFailure f took := by
  induction k with
  | zero => exact .inl fun j hj => absurd hj (Nat.not_lt_zero j)
  | succ k ih =>
    obtain hall | ⟨f, hf, hfail⟩ := ih
    · cases hanswer : s.answerAt k with
      | performed =>
        exact .inl fun j hj => (Nat.lt_succ_iff_lt_or_eq.mp hj).elim (hall j) (fun hjk => hjk ▸ hanswer)
      | failed took => exact .inr ⟨k, Nat.lt_succ_self k, took, hall, hanswer⟩
    · exact .inr ⟨f, Nat.lt_succ_of_lt hf, hfail⟩

theorem txBody_acceptTransmit_ret (s : State) :
    (txBody (acceptTransmit s)).state.ret = some .ok ∨
      (txBody (acceptTransmit s)).state.ret = some (.raised .ioFailure) := by
  obtain hall | ⟨f, hf, took, hfail⟩ := allPerformed_or_firstFailure (acceptTransmit s) 937
  · rw [txBody_performed (acceptTransmit_seq s) hall]
    exact .inl rfl
  · rw [txBody_failed (acceptTransmit_seq s) hf hfail (frameOps_getElem? _ hf)]
    exact .inr rfl

theorem txBody_acceptTransmit_noValidationError (s : State) :
    (txBody (acceptTransmit s)).state.NoValidationError := by
  obtain hret | hret := txBody_acceptTransmit_ret s <;> simp [State.NoValidationError, hret]

theorem checksThenActs_transmit : ChecksThenActs .transmit :=
  ⟨[], fun s => (txBody (acceptTransmit s)).state, rfl,
    fun s => ⟨exec_transmit s, txBody_acceptTransmit_noValidationError s⟩⟩

/-! ## The operations with several shapes -/

theorem checksThenActs_setPixel (index : Int) (c : Colour) (q : Rat) :
    ChecksThenActs (.setPixelColourBrightness index c q) :=
  .of_operands (fun _ => rfl) (fun _ _ => nofun) rfl (firstError_setPixel index c q)

theorem checksThenActs_setPixelDefault (index : Int) (c : Colour) : ChecksThenActs (.setPixelColour index c) :=
  .of_operands (fun _ => rfl) (fun _ _ => nofun) rfl (firstError_setPixelDefault index c)

theorem checksThenActs_setGradient (c0 c1 : Colour) (q0 q1 : Rat) : ChecksThenActs (.setGradient c0 c1 q0 q1) :=
  .of_operands (fun _ => rfl) (fun _ _ => nofun) rfl (firstError_gradient c0 c1 q0 q1)

/-! ## The operations that take arrays (R212) -/

theorem checksThenActs_setAllPixelsList (cs : List Colour) (qs : List Rat) :
    ChecksThenActs (.setAllPixelsList cs qs) := by
  refine .of_lengths (fun _ => rfl) (fun _ _ => nofun) (fun h => ?right) (fun h => ?wrong)
  case right =>
    obtain ⟨hcs, hqs⟩ : cs.length = 8 ∧ qs.length = 8 := by simpa [Instr.lengthsOk] using h
    exact firstError_setAllPixelsList hcs hqs
  case wrong =>
    exact firstError_setAllPixelsList_of_length_ne (by simpa [Instr.lengthsOk, imp_iff_not_or] using h)

theorem checksThenActs_setAllPixelsScalar (cs : List Colour) (q : Rat) :
    ChecksThenActs (.setAllPixelsScalar cs q) := by
  refine .of_lengths (fun _ => rfl) (fun _ _ => nofun) (fun h => ?right) (fun h => ?wrong)
  case right => exact firstError_setAllPixelsScalar (by simpa [Instr.lengthsOk] using h) q
  case wrong => exact firstError_setAllPixelsScalar_of_length_ne (by simpa [Instr.lengthsOk] using h) q

/-! ## Every operation of the host layer -/

theorem checksThenActs_of_host {i : Instr} (h : i.layer = .host) : ChecksThenActs i := by
  cases i with
  | wrpix | clrpix | clrall | fill | rdpix | tx | preamble | pixelPacket | latch => cases h
  | setPixelColourBrightness index c q => exact checksThenActs_setPixel index c q
  | setPixelRgbBrightness index r g b q =>
    exact (checksThenActs_setPixel index ⟨r, g, b⟩ q).of_same (fun _ => rfl) rfl
      (by simp only [Instr.operandsOk, colourOk, Bool.and_assoc])
  | setPixelColour index c => exact checksThenActs_setPixelDefault index c
  | setPixelRgb index r g b =>
    exact (checksThenActs_setPixelDefault index ⟨r, g, b⟩).of_same (fun _ => rfl) rfl
      (by simp only [Instr.operandsOk, colourOk, Bool.and_assoc])
  | clearPixel index => exact .of_operands (fun _ => rfl) (fun _ _ => nofun) rfl (firstError_index index)
  | getPixel index => exact .of_operands (fun _ => rfl) (fun _ _ => nofun) rfl (firstError_index index)
  | setAll r g b q => exact .of_operands (fun _ => rfl) (fun _ _ => nofun) rfl (firstError_setAll ⟨r, g, b⟩ q)
  | setGradient c0 c1 q0 q1 => exact checksThenActs_setGradient c0 c1 q0 q1
  | setGradientOneBrightness c0 c1 q =>
    exact (checksThenActs_setGradient c0 c1 q q).of_same (fun _ => rfl) rfl
      (by simp only [Instr.operandsOk, Bool.and_assoc, Bool.and_self])
  | setGradientOneColour c q0 q1 =>
    exact (checksThenActs_setGradient c c q0 q1).of_same (fun _ => rfl) rfl
      (by simp only [Instr.operandsOk, Bool.and_self])
  | setGradientFlat c q =>
    exact (checksThenActs_setGradient c c q q).of_same (fun _ => rfl) rfl
      (by simp only [Instr.operandsOk, Bool.and_assoc, Bool.and_self])
  | setAllPixelsList cs qs => exact checksThenActs_setAllPixelsList cs qs
  | setAllPixelsScalar cs q => exact checksThenActs_setAllPixelsScalar cs q
  | setDefaultBrightness q => exact .of_operands (fun _ => rfl) (fun _ _ => nofun) rfl (firstError_bright q)
  | clearAll => exact .of_operands (checks := []) exec_clearAll (fun _ _ => nofun) rfl rfl
  | getDefaultBrightness =>
    exact .of_operands (checks := []) exec_getDefaultBrightness (fun _ _ => nofun) rfl rfl
  | reset => exact .of_operands (checks := []) (fun _ => rfl) (fun _ _ => nofun) rfl rfl
  | transmit => exact checksThenActs_transmit

/-- Settles O18: an ill-formed call is a host-layer operation, and every such operation checks first and then acts. -/
theorem validationErrorsChangeNothing : Obligations.ValidationErrorsChangeNothing :=
  ⟨fun _ s hwf => (checksThenActs_of_host (Instr.layer_host_of_not_wf hwf)).exec_of_not_wf hwf s,
    fun _ s hwf hhost => (checksThenActs_of_host hhost).exec_of_wf hwf s⟩

end Sys2Proof.Machine
end

section
/-! Decoding and encoding undo each other (R84, R89). A command whose row has must-be-zero bits has exactly the words in
which they are zero, so no bit of a word is read by neither side. -/

namespace Sys2Proof

/-! ## The words of the rows with must-be-zero bits (R81) -/

section words
variable (op : BitVec 8) (idx : BitVec 3)

theorem low29_commandWord_idx : (commandWord op idx 0 0 0 0).extractLsb' 0 29 = 0 := by
  rw [commandWord_idx]
  exact BitVec.extractLsb'_append_eq_right

theorem low32_commandWord_op : (commandWord op 0 0 0 0 0).extractLsb' 0 32 = 0 := by
  apply BitVec.eq_of_toNat_eq
  rw [slice_toNat, commandWord_toNat]
  simp

variable {w : CmdWord}

/-- A word with zeros in the 29 bits after `idx` is the word of its `op` and `idx`. -/
theorem eq_commandWord_of_low29 (h : w.extractLsb' 0 29 = 0) :
    w = commandWord (fieldOp w) (BitVec.ofNat 3 (fieldIdx w).val) 0 0 0 0 := by
  have hlow : w.toNat / 2 ^ 0 % 2 ^ 29 = 0 := (slice_toNat w 0 29).symm.trans (congrArg BitVec.toNat h)
  apply BitVec.eq_of_toNat_eq
  rw [commandWord_toNat, fieldOp_toNat, BitVec.toNat_ofNat, fieldIdx_val]
  simp only [BitVec.ofNat_eq_ofNat, BitVec.toNat_ofNat]
  omega

/-- A word with zeros in the 32 bits after `op` is the word of its `op`. -/
theorem eq_commandWord_of_low32 (h : w.extractLsb' 0 32 = 0) : w = commandWord (fieldOp w) 0 0 0 0 0 := by
  have hlow : w.toNat / 2 ^ 0 % 2 ^ 32 = 0 := (slice_toNat w 0 32).symm.trans (congrArg BitVec.toNat h)
  apply BitVec.eq_of_toNat_eq
  rw [commandWord_toNat, fieldOp_toNat]
  simp only [BitVec.ofNat_eq_ofNat, BitVec.toNat_ofNat]
  omega

/-- A word with zeros in place of `idx` is the word of its other fields. -/
theorem eq_commandWord_of_idx_zero (h : w.extractLsb' 29 3 = 0) :
    w = commandWord (fieldOp w) 0 (fieldLvl w) (fieldB w) (fieldG w) (fieldR w) := by
  have hidx : BitVec.ofNat 3 (fieldIdx w).val = 0 := 
    ((BitVec.ofNat_toNat 3 _).trans (BitVec.setWidth_eq _)).trans h
  exact (commandWord_fields w).trans (by rw [hidx])

end words

theorem fieldIdx_commandWord_ofNat (op : BitVec 8) (idx : Fin 8) (lvl : Level) (b g r : Byte) :
    fieldIdx (commandWord op (BitVec.ofNat 3 idx.val) lvl b g r) = idx := by
  rw [fieldIdx_commandWord]
  exact Fin.ext (Nat.mod_eq_of_lt idx.isLt)

/-! ## The words of the packets (R72) -/

section packet
variable (r g b : Byte) (lvl : Level)

theorem packet_toNat :
    (Config.flag ++ lvl ++ b ++ g ++ r).toNat =
      7 * 2 ^ 29 + lvl.toNat * 2 ^ 24 + b.toNat * 2 ^ 16 + g.toNat * 2 ^ 8 + r.toNat := by
  have hflag : Config.flag.toNat = 7 := rfl
  simp only [append_toNat, hflag]
  ring

/-- A flagged word is the packet of its own fields. -/
theorem eq_packet_of_flag {w : Word32} (h : w.extractLsb' 29 3 = Config.flag) :
    w = Config.flag ++ fieldLvl w ++ fieldB w ++ fieldG w ++ fieldR w := by
  have hflag : w.toNat / 2 ^ 29 % 2 ^ 3 = 7 := (slice_toNat w 29 3).symm.trans (congrArg BitVec.toNat h)
  have hlt := w.isLt
  apply BitVec.eq_of_toNat_eq
  rw [packet_toNat, fieldLvl_toNat, fieldB_toNat, fieldG_toNat, fieldR_toNat]
  omega

theorem decodeWire_packet :
    decodeWire (Config.flag ++ lvl ++ b ++ g ++ r) = .ok (.pixelPacket r g b lvl) := by
  have hword := packet_toNat r g b lvl
  have hnonzero : Config.flag ++ lvl ++ b ++ g ++ r ≠ 0 := fun h => by
    have hzero : (0 : Word32).toNat = 0 := rfl
    rw [h, hzero] at hword
    omega
  have hflag : (Config.flag ++ lvl ++ b ++ g ++ r).extractLsb' 29 3 = Config.flag := by
    apply BitVec.eq_of_toNat_eq
    rw [slice_toNat, hword, Config.flag, BitVec.toNat_ofNat]
    omega
  rw [decodeWire, if_neg hnonzero, if_pos hflag]
  congr 2 <;> apply BitVec.eq_of_toNat_eq
  · rw [fieldR_toNat, hword]; omega
  · rw [fieldG_toNat, hword]; omega
  · rw [fieldB_toNat, hword]; omega
  · rw [fieldLvl_toNat, hword]; omega

end packet

/-! ## The obligations -/

/-- Settles O45: the `op` of the word selects the row of its instruction, the must-be-zero bits are zero, and each field
is the operand it was made of. -/
theorem decodeOfEncode : Obligations.DecodeOfEncode := by
  intro i cw h
  cases i with
  | wrpix idx r g b lvl =>
    cases h
    refine (decodeCommand_wrpix (fieldOp_commandWord ..)).trans ?_
    rw [fieldIdx_commandWord_ofNat, fieldR_commandWord, fieldG_commandWord, fieldB_commandWord, fieldLvl_commandWord]
  | clrpix idx =>
    cases h
    refine (decodeCommand_ok_of_ifZero (decodeCommand_clrpix (fieldOp_commandWord ..))
      (low29_commandWord_idx ..)).trans ?_
    rw [fieldIdx_commandWord_ofNat]
  | clrall =>
    cases h
    exact decodeCommand_ok_of_ifZero (decodeCommand_clrall (fieldOp_commandWord ..)) (low32_commandWord_op ..)
  | fill r g b lvl =>
    cases h
    refine (decodeCommand_ok_of_ifZero (decodeCommand_fill (fieldOp_commandWord ..))
      (slice_idx_commandWord ..)).trans ?_
    rw [fieldR_commandWord, fieldG_commandWord, fieldB_commandWord, fieldLvl_commandWord]
  | rdpix idx =>
    cases h
    refine (decodeCommand_ok_of_ifZero (decodeCommand_rdpix (fieldOp_commandWord ..))
      (low29_commandWord_idx ..)).trans ?_
    rw [fieldIdx_commandWord_ofNat]
  | tx =>
    cases h
    exact decodeCommand_ok_of_ifZero (decodeCommand_tx (fieldOp_commandWord ..)) (low32_commandWord_op ..)
  | preamble => cases h; rfl
  | pixelPacket r g b lvl =>
    cases h
    exact decodeWire_packet r g b lvl
  | latch => cases h; rfl
  | _ => cases h

/-- A command word is the code word of the command it decodes to. -/
theorem encode_of_decodeCommand {w : CmdWord} {i : Instr} (h : decodeCommand w = .ok i) :
    encode i = some (.command w) := by
  obtain hop | hop | hop | hop | hop | hop | hop := opcode_cases (fieldOp w)
  · rw [decodeCommand_wrpix hop] at h
    cases h
    exact congrArg (some ∘ CodeWord.command) (hop ▸ (commandWord_fields w).symm)
  · rw [decodeCommand_clrpix hop] at h
    obtain ⟨hz, rfl⟩ := ifZero_ok.mp h
    exact congrArg (some ∘ CodeWord.command) (hop ▸ (eq_commandWord_of_low29 hz).symm)
  · rw [decodeCommand_clrall hop] at h
    obtain ⟨hz, rfl⟩ := ifZero_ok.mp h
    exact congrArg (some ∘ CodeWord.command) (hop ▸ (eq_commandWord_of_low32 hz).symm)
  · rw [decodeCommand_fill hop] at h
    obtain ⟨hz, rfl⟩ := ifZero_ok.mp h
    exact congrArg (some ∘ CodeWord.command) (hop ▸ (eq_commandWord_of_idx_zero hz).symm)
  · rw [decodeCommand_rdpix hop] at h
    obtain ⟨hz, rfl⟩ := ifZero_ok.mp h
    exact congrArg (some ∘ CodeWord.command) (hop ▸ (eq_commandWord_of_low29 hz).symm)
  · rw [decodeCommand_tx hop] at h
    obtain ⟨hz, rfl⟩ := ifZero_ok.mp h
    exact congrArg (some ∘ CodeWord.command) (hop ▸ (eq_commandWord_of_low32 hz).symm)
  · rw [decodeCommand_reserved hop] at h
    cases h

/-- A wire word is the code word of the item it decodes to. -/
theorem encode_of_decodeWire {w : Word32} {i : Instr} (h : decodeWire w = .ok i) : encode i = some (.wire w) := by
  unfold decodeWire at h
  split at h
  next hzero => cases h; rw [hzero]; rfl
  next =>
    split at h
    next hflag => cases h; exact congrArg (some ∘ CodeWord.wire) (eq_packet_of_flag hflag).symm
    next => cases h

theorem encode_of_decodeLatch {w : BitVec 36} {i : Instr} (h : decodeLatch w = .ok i) :
    encode i = some (.latch w) := by
  unfold decodeLatch at h
  split at h
  next hzero => cases h; rw [hzero]; rfl
  next => cases h

/-- Settles O46: one lemma for each format. -/
theorem encodeOfDecode : Obligations.EncodeOfDecode := by
  intro i cw h
  cases cw with
  | command w => exact encode_of_decodeCommand h
  | wire w => exact encode_of_decodeWire h
  | latch w => exact encode_of_decodeLatch h

/-- Settles O48: closed words, decoded. -/
theorem wordsDecodeAsTheSpecSpells : Obligations.WordsDecodeAsTheSpecSpells := by
  unfold Obligations.WordsDecodeAsTheSpecSpells
  decide

end Sys2Proof
end

section
/-! The expansions of the host-layer operations (R91), and what an instruction that sends nothing can do: a well-formed
one is its pixel commands, a write of the default brightness and a result; an ill-formed one is a result alone. -/

namespace Sys2Proof.Machine

/-! ## The commands of an expansion -/

/-- The level field of an expansion is that of the operation (R87, R170). -/
theorem ofInt_floor_eq_narrowBright (q : Rat) : BitVec.ofInt 5 (31 * q).floor = narrowBright q := by
  rw [mul_comm]
  rfl

theorem exec_lowerPixel (i : Fin 8) (c : Colour) (q : Rat) (s : State) :
    exec (lowerPixel i c (31 * q).floor) s = .next (wrpixState i (pixelOf c q) s) := by
  rw [lowerPixel, ofInt_floor_eq_narrowBright]
  rfl

/-- A row of `WRPIX` is the writing of their pixels. -/
theorem execAll_map_writes {α : Type} {cmd : α → Instr} {write : α → Fin 8 × Pixel}
    (h : ∀ x t, exec (cmd x) t = .next (wrpixState (write x).1 (write x).2 t)) (xs : List α) (s : State) :
    execAll (xs.map cmd) s = .next (writePixels (xs.map write) s) := by
  induction xs generalizing s with
  | nil => rfl
  | cons x xs ih => rw [List.map_cons, execAll_cons (h x s), ih, List.map_cons, writePixels_cons]

/-- The expansion of a gradient writes its pixels (R179 to R181). -/
theorem execAll_lowerGradient (c0 c1 : Colour) (q0 q1 : Rat) (s : State) :
    execAll (lowerGradient c0 c1 q0 q1) s =
      .next (writePixels (allIdx.map fun i => (i, gradPixel c0 c1 q0 q1 i.val)) s) := by
  refine execAll_map_writes (fun i t => ?_) allIdx s
  have hlevel : 31 * (q0 * (7 - (i.val : Rat)) + q1 * (i.val : Rat)) / 7 = 31 * lerp q0 q1 i.val := by
    rw [lerp_eq_weighted, mul_div_assoc]
  simp only [hlevel, ← gradChan_eq]
  exact exec_lowerPixel i (gradColour c0 c1 i.val) (lerp q0 q1 i.val) t

theorem execAll_lower_list (cs : List Colour) (qs : List Rat) (s : State) :
    execAll ((allIdx.zip (cs.zip qs)).map fun x => lowerPixel x.1 x.2.1 (31 * x.2.2).floor) s =
      .next (writePixels (listPixels cs qs) s) := by
  rw [listPixels, List.zip_map_right]
  exact execAll_map_writes (fun x => exec_lowerPixel x.1 x.2.1 x.2.2) _ s

theorem execAll_lower_scalar (cs : List Colour) (q : Rat) (s : State) :
    execAll ((allIdx.zip cs).map fun x => lowerPixel x.1 x.2 (31 * q).floor) s =
      .next (writePixels (allIdx.zip (cs.map fun c => pixelOf c q)) s) := by
  rw [List.zip_map_right]
  exact execAll_map_writes (fun x => exec_lowerPixel x.1 x.2 q) _ s

theorem execAll_one {i : Instr} {s t : State} (h : exec i s = .next t) : execAll [i] s = .next t := execAll_cons h []

/-! ## An operation and its expansion -/

/-- The default brightness a well-formed instruction leaves (R184, R187). -/
def defbAfter : Instr → Rat → Rat
  | .setDefaultBrightness q, _ => q
  | .reset, _ => 1
  | _, defb => defb

/-- The instruction is its expansion, but for the default brightness and for a result that is no error. -/
def RunsAsExpansion (i : Instr) : Prop :=
  ∀ s : State, ∃ u r, execAll (lowering i s.defb) s = .next u ∧
    exec i s = .next { u with defb := defbAfter i s.defb, ret := r } ∧ (r = s.ret ∨ ∀ c, r ≠ some (.raised c))

section expansion
variable {i j : Instr}

/-- An operation that runs its expansion and gives back a result. -/
theorem RunsAsExpansion.of_giveBack {act : State → State} {result : State → HostResult}
    (hdefb : ∀ s, defbAfter i s.defb = (act s).defb) (hexpand : ∀ s, execAll (lowering i s.defb) s = .next (act s))
    (hexec : ∀ s, exec i s = .next (giveBack (result s) (act s))) (hresult : ∀ s c, result s ≠ .raised c) :
    RunsAsExpansion i := fun s =>
  ⟨act s, some (result s), hexpand s, by rw [hdefb, hexec]; rfl, .inr fun c h => hresult s c (Option.some.inj h)⟩

/-- Two shapes of one operation (R174, R182). -/
theorem RunsAsExpansion.of_same (h : RunsAsExpansion j) (hexec : ∀ s, exec i s = exec j s)
    (hlowering : lowering i = lowering j) (hdefb : defbAfter i = defbAfter j) : RunsAsExpansion i := by
  intro s
  rw [hexec, hlowering, hdefb]
  exact h s

/-- A command of the pixel registers is its own expansion. -/
theorem RunsAsExpansion.of_pixelCommand (h : i.pixelCommand = true) : RunsAsExpansion i := by
  intro s
  have hself : lowering i s.defb = [i] ∧ defbAfter i s.defb = s.defb := by
    cases i with
    | wrpix | clrpix | clrall | fill | rdpix => exact ⟨rfl, rfl⟩
    | _ => cases h
  obtain ⟨v, d, hexec⟩ := exec_pixelCommand h s
  rw [hself.1, hself.2]
  exact ⟨_, s.ret, execAll_one hexec, hexec, .inl rfl⟩

end expansion

/-! ## Every operation -/

theorem runsAsExpansion_setPixel {index : Int} {c : Colour} {q : Rat}
    (h : (indexOk index && colourOk c && brightOk q) = true) :
    RunsAsExpansion (.setPixelColourBrightness index c q) :=
  .of_giveBack (act := wrpixState (narrowIndex index) (pixelOf c q)) (fun _ => rfl)
    (fun s => execAll_one (exec_lowerPixel (narrowIndex index) c q s))
    (fun _ => congrArg _ (checked_of_ok (firstError_setPixel index c q) h)) (fun _ _ => nofun)

theorem runsAsExpansion_setPixelDefault {index : Int} {c : Colour} (h : (indexOk index && colourOk c) = true) :
    RunsAsExpansion (.setPixelColour index c) :=
  .of_giveBack (act := fun s => wrpixState (narrowIndex index) (pixelOf c s.defb) s) (fun _ => rfl)
    (fun s => execAll_one (exec_lowerPixel (narrowIndex index) c s.defb s))
    (fun _ => congrArg _ (checked_of_ok (firstError_setPixelDefault index c) h)) (fun _ _ => nofun)

theorem runsAsExpansion_clearPixel {index : Int} (h : indexOk index = true) : RunsAsExpansion (.clearPixel index) :=
  .of_giveBack (act := clrpixState (narrowIndex index)) (fun _ => rfl) (fun _ => rfl)
    (fun _ => congrArg _ (checked_of_ok (firstError_index index) h)) (fun _ _ => nofun)

theorem runsAsExpansion_getPixel {index : Int} (h : indexOk index = true) : RunsAsExpansion (.getPixel index) :=
  .of_giveBack (act := rdpixState (narrowIndex index)) (fun _ => rfl) (fun _ => rfl)
    (fun _ => congrArg _ (checked_of_ok (firstError_index index) h)) (fun _ _ => nofun)

theorem runsAsExpansion_setAll {r g b : Int} {q : Rat} (h : (colourOk ⟨r, g, b⟩ && brightOk q) = true) :
    RunsAsExpansion (.setAll r g b q) :=
  .of_giveBack (act := fillState (pixelOf ⟨r, g, b⟩ q)) (fun _ => rfl)
    (fun s => by rw [lowering, ofInt_floor_eq_narrowBright]; rfl)
    (fun _ => congrArg _ (checked_of_ok (firstError_setAll ⟨r, g, b⟩ q) h)) (fun _ _ => nofun)

theorem writePixels_defb (ws : List (Fin 8 × Pixel)) (s : State) : (writePixels ws s).defb = s.defb := by
  rw [writePixels_frame]

theorem runsAsExpansion_setGradient {c0 c1 : Colour} {q0 q1 : Rat}
    (h : (colourOk c0 && colourOk c1 && brightOk q0 && brightOk q1) = true) :
    RunsAsExpansion (.setGradient c0 c1 q0 q1) :=
  .of_giveBack (fun s => (writePixels_defb _ s).symm) (execAll_lowerGradient c0 c1 q0 q1)
    (fun _ => congrArg _ (checked_of_ok (firstError_gradient c0 c1 q0 q1) h)) (fun _ _ => nofun)

theorem runsAsExpansion_setAllPixelsList {cs : List Colour} {qs : List Rat} (hcs : cs.length = 8)
    (hqs : qs.length = 8) (h : (cs.all colourOk && qs.all brightOk) = true) :
    RunsAsExpansion (.setAllPixelsList cs qs) :=
  .of_giveBack (fun s => (writePixels_defb _ s).symm) (execAll_lower_list cs qs)
    (exec_setAllPixelsList_of_ok · hcs hqs h) (fun _ _ => nofun)

theorem runsAsExpansion_setAllPixelsScalar {cs : List Colour} {q : Rat} (hcs : cs.length = 8)
    (h : (cs.all colourOk && brightOk q) = true) : RunsAsExpansion (.setAllPixelsScalar cs q) :=
  .of_giveBack (result := fun _ => .ok) (fun s => (writePixels_defb _ s).symm) (execAll_lower_scalar cs q)
    (fun s => by rw [exec_setAllPixelsScalar_of_ok s hcs h, listPixels_replicate hcs]) (fun _ _ => nofun)

theorem runsAsExpansion_setDefaultBrightness {q : Rat} (h : brightOk q = true) :
    RunsAsExpansion (.setDefaultBrightness q) :=
  fun s => ⟨s, some .ok, rfl, exec_setDefaultBrightness_of_ok h s, .inr fun _ => nofun⟩

theorem runsAsExpansion_reset : RunsAsExpansion .reset :=
  fun s => ⟨clrallState s, some .ok, rfl, rfl, .inr fun _ => nofun⟩

/-- Every well-formed instruction that sends nothing is its expansion. -/
theorem runsAsExpansion_of_wf {i : Instr} (hwf : i.wf = true) (hwire : i.layer ≠ .wire) (htx : i ≠ .tx)
    (htransmit : i ≠ .transmit) : RunsAsExpansion i := by
  obtain ⟨hlengths, hoperands⟩ := Bool.and_eq_true_iff.mp hwf
  cases i with
  | wrpix | clrpix | clrall | fill | rdpix => exact .of_pixelCommand rfl
  | tx => exact absurd rfl htx
  | transmit => exact absurd rfl htransmit
  | preamble | pixelPacket | latch => exact absurd rfl hwire
  | setPixelColourBrightness index c q => exact runsAsExpansion_setPixel hoperands
  | setPixelRgbBrightness index r g b q =>
    have hok : (indexOk index && colourOk ⟨r, g, b⟩ && brightOk q) = true := by
      simpa only [Instr.operandsOk, colourOk, Bool.and_assoc] using hoperands
    exact (runsAsExpansion_setPixel hok).of_same (fun _ => rfl) rfl rfl
  | setPixelColour index c => exact runsAsExpansion_setPixelDefault hoperands
  | setPixelRgb index r g b =>
    have hok : (indexOk index && colourOk ⟨r, g, b⟩) = true := by
      simpa only [Instr.operandsOk, colourOk, Bool.and_assoc] using hoperands
    exact (runsAsExpansion_setPixelDefault hok).of_same (fun _ => rfl) rfl rfl
  | clearPixel index => exact runsAsExpansion_clearPixel hoperands
  | getPixel index => exact runsAsExpansion_getPixel hoperands
  | clearAll => exact .of_giveBack (act := clrallState) (fun _ => rfl) (fun _ => rfl) (fun _ => rfl) (fun _ _ => nofun)
  | setAll r g b q => exact runsAsExpansion_setAll hoperands
  | setGradient c0 c1 q0 q1 => exact runsAsExpansion_setGradient hoperands
  | setGradientOneBrightness c0 c1 q =>
    have hok : (colourOk c0 && colourOk c1 && brightOk q && brightOk q) = true := by
      simpa only [Instr.operandsOk, Bool.and_assoc, Bool.and_self] using hoperands
    exact (runsAsExpansion_setGradient hok).of_same (fun _ => rfl) rfl rfl
  | setGradientOneColour c q0 q1 =>
    have hok : (colourOk c && colourOk c && brightOk q0 && brightOk q1) = true := by
      simpa only [Instr.operandsOk, Bool.and_self] using hoperands
    exact (runsAsExpansion_setGradient hok).of_same (fun _ => rfl) rfl rfl
  | setGradientFlat c q =>
    have hok : (colourOk c && colourOk c && brightOk q && brightOk q) = true := by
      simpa only [Instr.operandsOk, Bool.and_assoc, Bool.and_self] using hoperands
    exact (runsAsExpansion_setGradient hok).of_same (fun _ => rfl) rfl rfl
  | setAllPixelsList cs qs =>
    obtain ⟨hcs, hqs⟩ : cs.length = 8 ∧ qs.length = 8 := by simpa [Instr.lengthsOk] using hlengths
    exact runsAsExpansion_setAllPixelsList hcs hqs hoperands
  | setAllPixelsScalar cs q =>
    exact runsAsExpansion_setAllPixelsScalar (by simpa [Instr.lengthsOk] using hlengths) hoperands
  | setDefaultBrightness q => exact runsAsExpansion_setDefaultBrightness hoperands
  | getDefaultBrightness =>
    exact .of_giveBack (act := id) (fun _ => rfl) (fun _ => rfl) exec_getDefaultBrightness (fun _ _ => nofun)
  | reset => exact runsAsExpansion_reset

/-! ## What the commands of an expansion do -/

/-- The commands of an expansion are commands of the pixel registers, and they write pixels where the operation does. -/
theorem lowering_pixelCommand {i : Instr} (hwire : i.layer ≠ .wire) (htx : i ≠ .tx) (htransmit : i ≠ .transmit)
    (defb : Rat) : ∀ c ∈ lowering i defb, c.pixelCommand = true ∧ c.writesPixels = i.writesPixels := by
  cases i with
  | tx => exact absurd rfl htx
  | transmit => exact absurd rfl htransmit
  | preamble | pixelPacket | latch => exact absurd rfl hwire
  | setDefaultBrightness | getDefaultBrightness => exact fun c hc => absurd hc List.not_mem_nil
  | setGradient | setGradientOneBrightness | setGradientOneColour | setGradientFlat | setAllPixelsList
    | setAllPixelsScalar =>
    intro c hc
    obtain ⟨x, -, rfl⟩ := List.mem_map.mp hc
    exact ⟨rfl, rfl⟩
  | _ =>
    intro c hc
    obtain rfl := List.mem_singleton.mp hc
    exact ⟨rfl, rfl⟩

/-- A pixel command responds `OK`, and `RDPIX` alone among them leaves every pixel (R22, R105). -/
theorem exec_pixelCommand_rsp_pix {c : Instr} {s t : State} (hc : c.pixelCommand = true) (h : exec c s = .next t) :
    (∃ d, t.rsp = some (respWord .ok d)) ∧ (c.writesPixels = false → t.pix = s.pix) := by
  cases c with
  | wrpix | clrpix | clrall | fill => cases h; exact ⟨⟨_, rfl⟩, nofun⟩
  | rdpix => cases h; exact ⟨⟨_, rfl⟩, fun _ => rfl⟩
  | _ => cases hc

theorem execAll_pixelCommands_rsp_pix {cmds : List Instr} (hcmds : ∀ c ∈ cmds, c.pixelCommand = true) {s t : State}
    (h : execAll cmds s = .next t) :
    (t.rsp = s.rsp ∨ ∃ d, t.rsp = some (respWord .ok d)) ∧ ((∀ c ∈ cmds, c.writesPixels = false) → t.pix = s.pix) := by
  induction cmds generalizing s with
  | nil => cases h; exact ⟨.inl rfl, fun _ => rfl⟩
  | cons c cmds ih =>
    obtain ⟨hc, hrest⟩ := List.forall_mem_cons.mp hcmds
    obtain ⟨v, d, hexec⟩ := exec_pixelCommand hc s
    rw [execAll_cons hexec] at h
    obtain ⟨hrsp, hpix⟩ := ih hrest h
    refine ⟨.inr (hrsp.elim (fun he => ⟨d, he⟩) id), fun hw => ?_⟩
    obtain ⟨hcw, hrestw⟩ := List.forall_mem_cons.mp hw
    exact (hpix hrestw).trans ((exec_pixelCommand_rsp_pix hc hexec).2 hcw)

/-! ## What an instruction that sends nothing can do -/

/-- From s to t nothing but pixels, default brightness, response and result changed, each only as the instruction may
(R22, R26, R85, R214). -/
structure QuietEffect (i : Instr) (s t : State) : Prop where
  wire : SameWire s t
  inputs : SameInputs s t
  hostTx : t.hostTx = s.hostTx
  pix : i.writesPixels = false → t.pix = s.pix
  defb : (∀ q, i ≠ .setDefaultBrightness q) → i ≠ .reset → t.defb = s.defb
  defbFrac : 0 ≤ s.defb ∧ s.defb ≤ 1 → 0 ≤ t.defb ∧ t.defb ≤ 1
  rsp : t.rsp = s.rsp ∨ ∃ d, t.rsp = some (respWord .ok d)
  ret : t.ret = s.ret ∨ ∀ c, t.ret = some (.raised c) → c = .outOfRange ∨ c = .lengthMismatch

section quiet
variable {i : Instr}

theorem defbAfter_of_ne (hset : ∀ q, i ≠ .setDefaultBrightness q) (hreset : i ≠ .reset) (defb : Rat) :
    defbAfter i defb = defb := by
  cases i with
  | setDefaultBrightness q => exact absurd rfl (hset q)
  | reset => exact absurd rfl hreset
  | _ => rfl

/-- The default brightness stays a `Frac` (R26). -/
theorem defbAfter_frac (hwf : i.wf = true) {defb : Rat} (h : 0 ≤ defb ∧ defb ≤ 1) :
    0 ≤ defbAfter i defb ∧ defbAfter i defb ≤ 1 := by
  cases i with
  | setDefaultBrightness q => exact brightOk_iff.mp hwf
  | reset => exact ⟨zero_le_one, le_refl 1⟩
  | _ => exact h

/-- An ill-formed call does nothing but give its caller the error. -/
theorem quietEffect_of_not_wf (hwf : i.wf = false) {s t : State} (h : exec i s = .next t) : QuietEffect i s t := by
  rw [validationErrorsChangeNothing.1 i s hwf] at h
  cases h
  refine ⟨⟨rfl, rfl, rfl, rfl, rfl⟩, ⟨rfl, rfl, rfl⟩, rfl, fun _ => rfl, fun _ _ => rfl, id, .inl rfl, .inr ?_⟩
  rintro c ⟨⟩
  split
  · exact .inl rfl
  · exact .inr rfl

/-- What an instruction that sends nothing can do, in any state. -/
theorem exec_quietEffect (hwire : i.layer ≠ .wire) (htx : i ≠ .tx) (htransmit : i ≠ .transmit) {s t : State}
    (h : exec i s = .next t) : QuietEffect i s t := by
  cases hwf : i.wf with
  | false => exact quietEffect_of_not_wf hwf h
  | true =>
    obtain ⟨u, r, hexpand, hexec, hret⟩ := runsAsExpansion_of_wf hwf hwire htx htransmit s
    cases h.symm.trans hexec
    have hcmds := lowering_pixelCommand hwire htx htransmit s.defb
    obtain ⟨u', hexpand', hdefb, hwires, ⟨-, hhostTx⟩, hinputs⟩ :=
      execAll_pixelCommands (fun c hc => (hcmds c hc).1) s
    cases hexpand.symm.trans hexpand'
    obtain ⟨hrsp, hpix⟩ := execAll_pixelCommands_rsp_pix (fun c hc => (hcmds c hc).1) hexpand
    exact {
      wire := hwires
      inputs := hinputs
      hostTx := hhostTx
      pix := fun hw => hpix fun c hc => ((hcmds c hc).2).trans hw
      defb := fun hset hreset => defbAfter_of_ne hset hreset s.defb
      defbFrac := defbAfter_frac hwf
      rsp := hrsp
      ret := hret.imp id fun hne c hc => absurd hc (hne c) }

end quiet

/-! ## The obligations -/

/-- A command of the pixel registers, and `TX`, has a command word that decodes to it. -/
theorem commandWord_of_layer_block {c : Instr} (h : c.layer = .block) :
    ∃ w, encode c = some (.command w) ∧ decodeCommand w = .ok c := by
  obtain ⟨w, hw⟩ : ∃ w, encode c = some (.command w) := by
    cases c with
    | wrpix | clrpix | clrall | fill | rdpix | tx => exact ⟨_, rfl⟩
    | _ => cases h
  exact ⟨w, hw, decodeOfEncode c (.command w) hw⟩

theorem layer_of_pixelCommand {c : Instr} (h : c.pixelCommand = true) : c.layer = .block := by
  cases c with
  | wrpix | clrpix | clrall | fill | rdpix => rfl
  | _ => cases h

/-- `transmit()` sends what `TX` sends; their states differ in the result alone (R188). -/
theorem exec_transmit_eq_tx (s : State) :
    ∃ u r, exec .tx s = .next u ∧ exec .transmit s = .next { u with ret := r } := by
  obtain hall | ⟨f, hf, took, hfail⟩ := allPerformed_or_firstFailure s 937
  · obtain ⟨htx, htransmit, -⟩ := transmitSendsTheWholeFrame s hall
    exact ⟨_, _, htx, htransmit⟩
  · obtain ⟨htx, htransmit⟩ := transmitStopsAtTheFirstFailure s f took _ hf hfail (frameOps_getElem? s.pix hf)
    exact ⟨_, _, htx, htransmit⟩

/-- Settles O19: `transmit()` is one `TX`; every other operation is its row of pixel commands. -/
theorem hostOperationsAreTheirExpansions : Obligations.HostOperationsAreTheirExpansions := by
  intro i s hhost hwf
  have hsame (u : State) : SameWire u u ∧ SameInputs u u := ⟨⟨rfl, rfl, rfl, rfl, rfl⟩, rfl, rfl, rfl⟩
  by_cases htransmit : i = .transmit
  · subst htransmit
    obtain ⟨u, r, htx, hexec⟩ := exec_transmit_eq_tx s
    refine ⟨_, u, hexec, execAll_one htx, rfl, (hsame u).1, rfl, (hsame u).2, fun c hc => ?_⟩
    obtain rfl := List.mem_singleton.mp hc
    exact commandWord_of_layer_block rfl
  · have hwire : i.layer ≠ .wire := fun h => nomatch hhost.symm.trans h
    have htx : i ≠ .tx := by rintro rfl; cases hhost
    obtain ⟨u, r, hexpand, hexec, -⟩ := runsAsExpansion_of_wf hwf hwire htx htransmit s
    exact ⟨_, u, hexec, hexpand, rfl, (hsame u).1, rfl, (hsame u).2, fun c hc =>
      commandWord_of_layer_block (layer_of_pixelCommand (lowering_pixelCommand hwire htx htransmit s.defb c hc).1)⟩

/-- Settles O42: each of these instructions is one of a quiet effect. -/
theorem onlyTransmitTouchesTheWire : Obligations.OnlyTransmitTouchesTheWire := by
  intro i s t h hwire htx htransmit
  have heffect := exec_quietEffect hwire htx htransmit h
  obtain ⟨-, hio, -⟩ := heffect.inputs
  exact ⟨heffect.wire, hio, heffect.hostTx⟩

end Sys2Proof.Machine
end

section
/-! One line operation, the emitters, and the wire items in their place of a frame (R70 to R74, R131 to R145). -/

namespace Sys2Proof.Machine

/-! ## One line operation (R131) -/

theorem answerAt_zero_of_io_nil {s : State} (h : s.io = []) : s.answerAt 0 = openAnswer s.nops := by
  rw [State.answerAt, h]
  rfl

/-- The response `IoFailure` with data 0 (R85, R86). -/
theorem respWord_ioFailure : respWord .ioFailure 0#29 = 0x60000000#32 := rfl

/-- Settles O21: the answer selects the case; where a performed operation is not the last of a frame it moves `SEQ`
alone, and as the last it completes the `TX`. -/
theorem lineSetDrivesOneLine : Obligations.LineSetDrivesOneLine := by
  refine ⟨fun s h => answerAt_zero_of_io_nil h, fun op s h => ?performed, fun op took s h => ?failed⟩
  case performed =>
    refine ⟨_, lineSet_performed h, by simp, by simp, by simp, by simp, by simp, by simp, fun n hn => ⟨?_, ?_⟩, ?_⟩
    · intro hlt
      rw [advanceSeq_of_lt (by simpa using hn) (Nat.succ_lt_succ hlt)]
      exact ⟨rfl, by simp, by simp, by simp⟩
    · intro hlast
      rw [advanceSeq_of_last (by simpa using hn) (by omega)]
      exact ⟨rfl, rfl, rfl, by simp [txResult]⟩
    · intro hidle
      rw [advanceSeq_of_idle (by simpa using hidle)]
      exact ⟨by simpa using hidle, by simp, by simp, by simp⟩
  case failed =>
    refine ⟨_, lineSet_failed h, ?_⟩
    cases took with
    | false => exact ⟨by simp, by simp, rfl, rfl, rfl, rfl, rfl, rfl, rfl, rfl⟩
    | true => simp [txResult, respWord_ioFailure]

/-! ## The emitters -/

/-- Settles O22: each emitter is the emission of its list. -/
theorem emittersPerformTheirOperations : Obligations.EmittersPerformTheirOperations :=
  ⟨pulse_eq_emit, emitBit_eq_emit, emitByte_eq_emit, emitWord_eq_emit,
    fun s => ⟨preambleBody_eq_emit s, (preambleBody_eq_emit s).trans (emitWord_eq_emit 0 s).symm⟩,
    packetBody_eq_emit, latchBody_eq_emit, txBody_eq_emit⟩

/-! ## The wire items -/

section items
variable (s : State)

theorem exec_preamble : exec .preamble s = .next (emit (wordOps 0) s).state := by
  rw [← preambleBody_eq_emit]
  rfl

theorem exec_pixelPacket (r g b : Byte) (lvl : Level) :
    exec (.pixelPacket r g b lvl) s = .next (emit (wordOps (packetWord ⟨r, g, b, lvl⟩)) s).state := by
  rw [← emitWord_eq_emit]
  rfl

theorem exec_latch : exec .latch s = .next (emit latchOps s).state := by
  rw [← latchBody_eq_emit]
  rfl

theorem itemOps_preamble : itemOps .preamble = wordOps 0 := rfl

theorem itemOps_pixelPacket (r g b : Byte) (lvl : Level) :
    itemOps (.pixelPacket r g b lvl) = wordOps (packetWord ⟨r, g, b, lvl⟩) := rfl

theorem itemOps_latch : itemOps .latch = latchOps := rfl

/-- A wire item performs its line operations. -/
theorem exec_item {i : Instr} (h : i.layer = .wire) : exec i s = .next (emit (itemOps i) s).state := by
  cases i with
  | preamble => exact exec_preamble s
  | pixelPacket r g b lvl => exact exec_pixelPacket s r g b lvl
  | latch => exact exec_latch s
  | _ => cases h

end items

/-- A performed list of k line operations that ends before the frame does, as one state. -/
theorem emit_performed_state {ops : List LineOp} {s : State} {k : Nat} {n m : Fin 937} (hlen : ops.length = k)
    (hs : s.seq = some n) (hm : n.val + k = m.val) (h : s.allPerformed k) :
    (emit ops s).state = { s with
      clk := (levelsAfter s.clk s.dat ops).1, dat := (levelsAfter s.clk s.dat ops).2, seq := some m
      trace := s.trace ++ ops, nops := s.nops + k, io := s.io.drop k } := by
  subst hlen
  obtain ⟨-, htrace, hlevels, hnops, hio, hdefb, hreq, hrst, hseq⟩ := emit_performed ops s h
  obtain ⟨hseq, hrsp, hret, hhostTx⟩ := hseq n hs (hm ▸ m.isLt)
  have hm : (⟨n.val + ops.length, hm ▸ m.isLt⟩ : Fin 937) = m := Fin.ext hm
  have hpix := emit_pix ops s
  rw [← hlevels]
  cases hE : (emit ops s).state
  simp only [hE, hm] at htrace hnops hio hdefb hreq hrst hseq hrsp hret hhostTx hpix
  subst htrace hnops hio hdefb hreq hrst hseq hrsp hret hhostTx hpix
  rfl

/-- A byte leaves `CLK` low and `DAT` at its last bit. -/
theorem levelsAfter_byteOps (c d : Bit) (B : Byte) : levelsAfter c d (byteOps B) = (false, B.getLsbD 0) := rfl

theorem levelsAfter_bytes (c d : Bit) (Bs : List Byte) (B : Byte) :
    levelsAfter c d ((Bs ++ [B]).flatMap byteOps) = (false, B.getLsbD 0) := by
  rw [List.flatMap_append, levelsAfter_append, List.flatMap_singleton, levelsAfter_byteOps]

theorem wordOps_packet (p : Pixel) :
    wordOps (packetWord p) = [0b111#3 ++ p.lvl, p.b, p.g, p.r].flatMap byteOps := by
  rw [wordOps, wordBytes_packetWord]

/-- Settles O25: the preamble and a packet are 96 performed operations that end before the frame does, the latch is the
73 that end it. -/
theorem wireItemsAreSentInPlace : Obligations.WireItemsAreSentInPlace := by
  refine ⟨fun s hs h => ?preamble, fun r g b lvl i s hs h => ?packet, fun s hs h => ?latch⟩
  case preamble =>
    rw [exec_preamble, emit_performed_state (wordOps_length 0) hs (m := 96) rfl h]
    rfl
  case packet =>
    have hlevels : levelsAfter s.clk s.dat (wordOps (packetWord ⟨r, g, b, lvl⟩)) = (false, r.getLsbD 0) := by
      rw [wordOps_packet]
      exact levelsAfter_bytes s.clk s.dat [0b111#3 ++ lvl, b, g] r
    have hend : 96 + 96 * i.val + 96 = 192 + 96 * i.val := by omega
    rw [exec_pixelPacket, emit_performed_state (wordOps_length _) hs (m := ⟨192 + 96 * i.val, by omega⟩) hend h,
      hlevels, wordOps_packet]
  case latch =>
    rw [exec_latch, emit_completes latchOps s 864 hs rfl h, levelsAfter_latchOps]
    rfl

/-! ## Who writes the pixels and the default brightness -/

/-- Whatever the environment answers, a list of line operations leaves the registers of the host and the inputs that are
not answers. -/
theorem emit_frame (ops : List LineOp) (s : State) :
    (emit ops s).state.pix = s.pix ∧ (emit ops s).state.defb = s.defb ∧
      (emit ops s).state.requests = s.requests ∧ (emit ops s).state.rst = s.rst := by
  induction ops generalizing s with
  | nil => exact ⟨rfl, rfl, rfl, rfl⟩
  | cons op ops ih =>
    obtain ⟨hpix, hdefb, hreq, hrst, -, -⟩ := lineSet_frame op s
    rw [emit_cons]
    cases h : (lineSet op s).done with
    | false => rw [andThen_stopped h]; exact ⟨hpix, hdefb, hreq, hrst⟩
    | true =>
      obtain ⟨hpix', hdefb', hreq', hrst'⟩ := ih (lineSet op s).state
      rw [andThen_done h]
      exact ⟨hpix'.trans hpix, hdefb'.trans hdefb, hreq'.trans hreq, hrst'.trans hrst⟩

/-- `TX`, `transmit()` and the wire items leave them too. -/
theorem exec_sending_frame {i : Instr} (hsend : i.layer = .wire ∨ i = .tx ∨ i = .transmit) {s t : State}
    (h : exec i s = .next t) : t.pix = s.pix ∧ t.defb = s.defb ∧ t.requests = s.requests ∧ t.rst = s.rst := by
  obtain hwire | rfl | rfl := hsend
  · rw [exec_item s hwire] at h
    cases h
    exact emit_frame _ s
  · rw [exec_tx, txBody_eq_emit] at h
    cases h
    exact emit_frame _ (acceptTx s)
  · rw [exec_transmit, txBody_eq_emit] at h
    cases h
    exact emit_frame _ (acceptTransmit s)

/-- Settles O41: an instruction that sends leaves all of it; any other has a quiet effect. -/
theorem whoWritesPixelsAndDefault : Obligations.WhoWritesPixelsAndDefault := by
  intro i s t h
  by_cases hsend : i.layer = .wire ∨ i = .tx ∨ i = .transmit
  · obtain ⟨hpix, hdefb, hreq, hrst⟩ := exec_sending_frame hsend h
    exact ⟨fun _ => hpix, fun _ _ => hdefb, hreq, hrst⟩
  · obtain ⟨hwire, htx, htransmit⟩ := by simpa only [not_or] using hsend
    have heffect := exec_quietEffect hwire htx htransmit h
    obtain ⟨hreq, -, hrst⟩ := heffect.inputs
    exact ⟨heffect.pix, heffect.defb, hreq, hrst⟩

/-! ## A frame cut short, and the frame after a whole one -/

/-- `DAT` is stable in every first part of a list in which it is stable. -/
theorem datStable_of_append {c : Bit} {xs ys : List LineOp} (h : datStable c (xs ++ ys) = true) :
    datStable c xs = true := by
  induction xs generalizing c with
  | nil => rfl
  | cons op xs ih =>
    obtain ⟨line, v⟩ := op
    cases line with
    | clk => exact ih (c := v) h
    | dat =>
      obtain ⟨hlow, hrest⟩ := Bool.and_eq_true_iff.mp h
      exact Bool.and_eq_true_iff.mpr ⟨hlow, ih hrest⟩

/-- Settles O31: the operations before a failed one are a first part of the frame, in which `DAT` is stable. -/
theorem dataIsStableAcrossRisingEdges : Obligations.DataIsStableAcrossRisingEdges := by
  intro pix n
  have hwhole := datStable_frameOps pix
  rw [← List.take_append_drop n (frameOps pix)] at hwhole
  exact datStable_of_append hwhole

/-- Settles O32: the first frame leaves both lines low, from where the second is sampled whole. -/
theorem secondFrameIsSampledWhole : Obligations.SecondFrameIsSampledWhole := by
  intro s h
  obtain ⟨htx, -, -⟩ := transmitSendsTheWholeFrame s fun j hj => h j (by omega)
  refine ⟨_, _, _, htx, (transmitSendsTheWholeFrame _ fun j hj => ?_).1, rfl, rfl, rx_frameOps s.pix false⟩
  have hanswer := h (937 + j) (by omega)
  simpa [State.answerAt, Nat.add_assoc] using hanswer

/-! ## The wire item of a line operation (R32, R146) -/

section itemAt
variable (pix : Vector Pixel 8) {n : Nat}

theorem itemAt_preamble (h : n < 96) : itemAt pix n = .preamble ∧ itemStart n = 0 := by
  refine ⟨if_pos h, ?_⟩
  rw [itemStart, if_pos (by omega)]
  omega

theorem itemAt_packet {i : Fin 8} (hlo : 96 + 96 * i.val ≤ n) (hhi : n < 192 + 96 * i.val) :
    itemAt pix n = .pixelPacket pix[i].r pix[i].g pix[i].b pix[i].lvl ∧ itemStart n = 96 + 96 * i.val := by
  have hidx : n / 96 - 1 = i.val := by omega
  constructor
  · rw [itemAt, if_neg (by omega), dif_pos (by omega)]
    simp only [hidx]
    rfl
  · rw [itemStart, if_pos (by omega)]
    omega

theorem itemAt_latch (h : 864 ≤ n) : itemAt pix n = .latch ∧ itemStart n = 864 := by
  refine ⟨?_, if_neg (by omega)⟩
  rw [itemAt, if_neg (by omega), dif_neg (by omega)]

theorem item_cases (n : Nat) :
    n < 96 ∨ (∃ i : Fin 8, 96 + 96 * i.val ≤ n ∧ n < 192 + 96 * i.val) ∨ 864 ≤ n := by
  by_cases hpre : n < 96
  · exact .inl hpre
  · by_cases hlatch : 864 ≤ n
    · exact .inr (.inr hlatch)
    · exact .inr (.inl ⟨⟨n / 96 - 1, by omega⟩, by simp only; omega, by simp only; omega⟩)

/-- The operations of an item are a piece of the frame, from the item's start on, that has operation n in it. -/
theorem itemOps_prefix (hn : n < 937) :
    itemOps (itemAt pix n) <+: (frameOps pix).drop (itemStart n) ∧ itemStart n ≤ n ∧
      n - itemStart n < (itemOps (itemAt pix n)).length ∧ (itemOps (itemAt pix n)).length ≤ 96 := by
  obtain h | ⟨i, hlo, hhi⟩ | h := item_cases n
  · obtain ⟨hitem, hstart⟩ := itemAt_preamble pix h
    rw [hitem, hstart, itemOps_preamble, wordOps_length]
    refine ⟨?_, Nat.zero_le n, h, le_refl 96⟩
    rw [List.drop_zero, frameOps, List.append_assoc]
    exact List.prefix_append _ _
  · obtain ⟨hitem, hstart⟩ := itemAt_packet pix hlo hhi
    rw [hitem, hstart, itemOps_pixelPacket, wordOps_length, ← frameOps_packet pix i]
    exact ⟨List.take_prefix _ _, hlo, by omega, le_refl 96⟩
  · obtain ⟨hitem, hstart⟩ := itemAt_latch pix h
    rw [hitem, hstart, itemOps_latch, latchOps_length, frameOps_latch]
    exact ⟨List.prefix_rfl, h, by omega, by decide⟩

end itemAt

/-- Settles O34: operation n of the frame is operation `n - itemStart n` of the item, which is a piece of the frame. -/
theorem busyStepBelongsToItsWireItem : Obligations.BusyStepBelongsToItsWireItem := by
  intro pix n hn
  refine ⟨?_, itemAt_preamble pix, fun i => itemAt_packet pix, itemAt_latch pix⟩
  obtain ⟨hprefix, hstart, hlt, -⟩ := itemOps_prefix pix hn
  rw [List.getElem?_eq_getElem hlt, ← List.prefix_iff_getElem?.mp hprefix _ hlt, List.getElem?_drop,
    Nat.add_sub_cancel' hstart, frameOps_getElem? pix hn]

end Sys2Proof.Machine
end

section
/-! One step: hardware reset (R240, R242), the request an idle block takes (R79, R83, R84), and the invariant, which
each of the kinds of step keeps. -/

namespace Sys2Proof.Machine

/-! ## Hardware reset -/

/-- Settles O44: `hardReset` writes every field but the inputs, and the lines where the block is idle. -/
theorem hardwareResetStep : Obligations.HardwareResetStep := by
  intro s hr
  refine ⟨_, step_of_rst hr, replicate_zero_getElem, rfl, rfl, rfl, rfl, rfl, rfl, fun hidle => ?_, fun hbusy => ?_⟩
  · have hlow : s.popRst.busy = false := busy_of_seq_none hidle
    simp [hardReset, hlow]
  · have hhigh : s.popRst.busy = true := Option.isSome_iff_ne_none.mpr hbusy
    simp [hardReset, hhigh]

/-! ## The request of an idle block -/

theorem layer_of_encode_command {i : Instr} {w : CmdWord} (h : encode i = some (.command w)) : i.layer = .block := by
  cases i with
  | wrpix | clrpix | clrall | fill | rdpix | tx => rfl
  | _ => cases h

/-- No request is a wire item (R77). -/
theorem requestInstr_layer {q : Request} {i : Instr} (h : requestInstr q = some i) : i.layer ≠ .wire := by
  cases q with
  | word w =>
    cases hdecode : decodeCommand w with
    | ok j =>
      obtain rfl : j = i := Option.some.inj ((requestInstr_word hdecode).symm.trans h)
      rw [layer_of_encode_command (encode_of_decodeCommand hdecode)]
      nofun
    | error e => cases (requestInstr_illegal hdecode).symm.trans h
  | call c =>
    obtain rfl : c.val = i := Option.some.inj h
    rw [c.property]
    nofun

theorem serve_of_instr {q : Request} {i : Instr} (h : requestInstr q = some i) (s : State) :
    serve q s = issue i s := by
  rw [serve, h]

theorem serve_of_illegal {q : Request} (h : requestInstr q = none) (s : State) :
    serve q s = .next (answerIllegal s) := by
  rw [serve, h]

section request
variable {s : State} {q : Request} {rest : List Request} (hs : s.seq = none) (hr : s.rstLevel = false)
  (hq : s.requests = q :: rest)
include hs hr hq

/-- A request that stands for a short instruction runs it. -/
theorem step_of_short {i : Instr} (hi : requestInstr q = some i) (htx : i ≠ .tx) (htransmit : i ≠ .transmit) :
    step s = exec i { s with requests := rest, rst := s.rst.tail } := by
  rw [step_of_request hs hr hq, serve_of_instr hi, issue_of_short htx htransmit]

theorem step_of_tx (hi : requestInstr q = some .tx) :
    step s = .next (acceptTx { s with requests := rest, rst := s.rst.tail }) := by
  rw [step_of_request hs hr hq, serve_of_instr hi]
  rfl

theorem step_of_transmit (hi : requestInstr q = some .transmit) :
    step s = .next (acceptTransmit { s with requests := rest, rst := s.rst.tail }) := by
  rw [step_of_request hs hr hq, serve_of_instr hi]
  rfl

theorem step_of_illegal (hi : requestInstr q = none) :
    step s = .next (answerIllegal { s with requests := rest, rst := s.rst.tail }) := by
  rw [step_of_request hs hr hq, serve_of_illegal hi]

end request

/-- Settles O35: the case of the request at the head. -/
theorem stepRunsTheRequest : Obligations.StepRunsTheRequest := by
  refine ⟨fun s q rest hs hr hq => ⟨fun i hi => ?instr, ?illegal⟩, fun s hs hr hq => step_of_waiting hs hr hq⟩
  case instr =>
    have hinstr : requestInstr q = some i := by
      obtain ⟨w, rfl, hdecode⟩ | ⟨hhost, rfl⟩ := hi
      · exact requestInstr_word hdecode
      · rfl
    refine ⟨step_of_short hs hr hq hinstr, ?_, ?_⟩
    · rintro rfl
      exact step_of_tx hs hr hq hinstr
    · rintro rfl
      exact step_of_transmit hs hr hq hinstr
  case illegal =>
    rintro w e rfl hdecode
    exact step_of_illegal hs hr hq (requestInstr_illegal hdecode)

/-- The state with its next request and the level of `rst` used up. -/
def State.taken (s : State) : State := { s with requests := s.requests.tail, rst := s.rst.tail }

/-- What a step of the idle block with `rst` low can be. -/
inductive IdleStep (s : State) : State → Prop
  | waits : IdleStep s s.taken
  | illegal : IdleStep s (answerIllegal s.taken)
  | acceptsTx : IdleStep s (acceptTx s.taken)
  | acceptsTransmit : IdleStep s (acceptTransmit s.taken)
  | runs {i : Instr} {t : State} (hwire : i.layer ≠ .wire) (htx : i ≠ .tx) (htransmit : i ≠ .transmit)
      (hexec : exec i s.taken = .next t) : IdleStep s t

theorem idleStep_of_step {s t : State} (hs : s.seq = none) (hr : s.rstLevel = false) (h : step s = .next t) :
    IdleStep s t := by
  cases hq : s.requests with
  | nil =>
    have htaken : s.taken = s.popRst := by simp [State.taken, State.popRst, hq]
    rw [step_of_waiting hs hr hq, ← htaken] at h
    cases h
    exact .waits
  | cons q rest =>
    have htaken : s.taken = { s with requests := rest, rst := s.rst.tail } := by rw [State.taken, hq]; rfl
    cases hi : requestInstr q with
    | none =>
      rw [step_of_illegal hs hr hq hi, ← htaken] at h
      cases h
      exact .illegal
    | some i =>
      by_cases htx : i = .tx
      · subst htx
        rw [step_of_tx hs hr hq hi, ← htaken] at h
        cases h
        exact .acceptsTx
      · by_cases htransmit : i = .transmit
        · subst htransmit
          rw [step_of_transmit hs hr hq hi, ← htaken] at h
          cases h
          exact .acceptsTransmit
        · rw [step_of_short hs hr hq hi htx htransmit, ← htaken] at h
          exact .runs (requestInstr_layer hi) htx htransmit h

/-- Settles O40: no kind of step of an idle block performs a line operation. -/
theorem linesChangeOnlyInsideAFrame : Obligations.LinesChangeOnlyInsideAFrame := by
  intro s t hs hr h
  cases idleStep_of_step hs hr h with
  | waits | illegal | acceptsTx | acceptsTransmit => exact ⟨rfl, rfl, rfl, rfl, rfl⟩
  | runs hwire htx htransmit hexec =>
    have heffect := exec_quietEffect hwire htx htransmit hexec
    obtain ⟨hclk, hdat, -, htrace, hnops⟩ := heffect.wire
    obtain ⟨-, hio, -⟩ := heffect.inputs
    exact ⟨hclk, hdat, htrace, hnops, hio⟩

/-! ## Totality (R230) -/

theorem exec_total (i : Instr) (s : State) : ∃ t, exec i s = .next t := by
  cases i <;> exact ⟨_, rfl⟩

theorem serve_total (q : Request) (s : State) : ∃ t, serve q s = .next t := by
  cases hi : requestInstr q with
  | none => exact ⟨_, serve_of_illegal hi s⟩
  | some i =>
    rw [serve_of_instr hi, issue]
    cases startTx i s with
    | none => exact exec_total i s
    | some t => exact ⟨t, rfl⟩

theorem step_total (s : State) : ∃ t, step s = .next t := by
  cases hr : s.rstLevel with
  | true => exact ⟨_, step_of_rst hr⟩
  | false =>
    cases hs : s.seq with
    | some n => exact ⟨_, step_of_busy hs hr⟩
    | none =>
      cases hq : s.requests with
      | nil => exact ⟨_, step_of_waiting hs hr hq⟩
      | cons q rest =>
        rw [step_of_request hs hr hq]
        exact serve_total q _

/-- Settles O39: every kind of step, and every arm of `exec`, answers a next state. -/
theorem nothingStopsTheMachine : Obligations.NothingStopsTheMachine := ⟨step_total, exec_total⟩

/-! ## The invariant -/

/-- The error a call may end with (R214). -/
def State.retLegal (s : State) : Prop :=
  ∀ c, s.ret = some (.raised c) → c = .outOfRange ∨ c = .lengthMismatch ∨ c = .ioFailure

section inv
variable {s : State}

/-- In an idle block the clauses about a running frame hold of themselves. -/
theorem inv_of_idle (hseq : s.seq = none) (hhostTx : s.hostTx = false) (hdefb : 0 ≤ s.defb ∧ s.defb ≤ 1)
    (htrace : s.trace.length ≤ s.nops) (hrsp : s.rspLegal) (hret : s.retLegal) : s.Inv where
  defbFrac := hdefb
  callWaits h := nomatch hhostTx.symm.trans h
  noEarlyResponse h := nomatch (busy_of_seq_none hseq).symm.trans h
  performedAttempted := htrace
  midFrame _ h := nomatch hseq.symm.trans h
  rspLegal := hrsp
  retLegal := hret

/-- In an idle block no call waits. -/
theorem State.Inv.hostTx_of_idle (hinv : s.Inv) (hseq : s.seq = none) : s.hostTx = false := by
  cases h : s.hostTx with
  | false => rfl
  | true => cases (busy_of_seq_none hseq).symm.trans (hinv.callWaits h)

theorem respCode_respWord (c : Code) (d : Packed) : respCode (respWord c d) = c.number :=
  BitVec.extractLsb'_append_eq_left

/-- Hardware reset establishes the invariant. -/
theorem inv_hardReset (s : State) : (hardReset s).Inv :=
  inv_of_idle rfl rfl ⟨zero_le_one, le_refl 1⟩ (Nat.le_refl 0) nofun nofun

/-- The use of a request and of a level of `rst` plays no part in it. -/
theorem State.Inv.taken (hinv : s.Inv) : s.taken.Inv :=
  ⟨hinv.defbFrac, hinv.callWaits, hinv.noEarlyResponse, hinv.performedAttempted, hinv.midFrame, hinv.rspLegal,
    hinv.retLegal⟩

theorem State.Inv.popRst (hinv : s.Inv) : s.popRst.Inv :=
  ⟨hinv.defbFrac, hinv.callWaits, hinv.noEarlyResponse, hinv.performedAttempted, hinv.midFrame, hinv.rspLegal,
    hinv.retLegal⟩

theorem State.Inv.answerIllegal (hinv : s.Inv) (hseq : s.seq = none) : (answerIllegal s).Inv := by
  refine inv_of_idle hseq (hinv.hostTx_of_idle hseq) hinv.defbFrac hinv.performedAttempted ?_ hinv.retLegal
  rintro w ⟨⟩
  exact .inr (.inr rfl)

/-- A frame about to begin has sent nothing. -/
theorem midFrame_of_start (hseq : s.seq = some 0) : s.midFrame := by
  intro n hn
  obtain rfl := Option.some.inj (hseq.symm.trans hn)
  exact ⟨⟨s.trace, (List.append_nil s.trace).symm⟩, s.clk, s.dat, rfl⟩

theorem State.Inv.acceptTx (hinv : s.Inv) : (acceptTx s).Inv :=
  ⟨hinv.defbFrac, nofun, fun _ => rfl, hinv.performedAttempted, midFrame_of_start rfl, nofun, hinv.retLegal⟩

theorem State.Inv.acceptTransmit (hinv : s.Inv) : (acceptTransmit s).Inv :=
  ⟨hinv.defbFrac, fun _ => rfl, fun _ => rfl, hinv.performedAttempted, midFrame_of_start rfl, nofun, nofun⟩

/-- An instruction that sends nothing keeps it in an idle block. -/
theorem State.Inv.quietEffect {i : Instr} {t : State} (hinv : s.Inv) (hseq : s.seq = none) (h : QuietEffect i s t) :
    t.Inv := by
  obtain ⟨-, -, hseq', htrace, hnops⟩ := h.wire
  refine inv_of_idle (hseq'.trans hseq) (h.hostTx.trans (hinv.hostTx_of_idle hseq)) (h.defbFrac hinv.defbFrac) ?_ ?_ ?_
  · rw [htrace, hnops]
    exact hinv.performedAttempted
  · obtain hrsp | ⟨d, hrsp⟩ := h.rsp
    · rw [State.rspLegal, hrsp]
      exact hinv.rspLegal
    · intro w hw
      obtain rfl := Option.some.inj (hrsp.symm.trans hw)
      exact .inl (respCode_respWord .ok d)
  · obtain hret | hret := h.ret
    · rw [State.retLegal, hret]
      exact hinv.retLegal
    · exact fun c hc => (hret c hc).imp id .inl

/-- The end of a `TX`, by its last operation or by one that failed, leaves an idle block. -/
theorem inv_completeTx {c : Code} (hc : c = .ok ∨ c = .ioFailure) (hdefb : 0 ≤ s.defb ∧ s.defb ≤ 1)
    (htrace : s.trace.length ≤ s.nops) (hret : s.retLegal) : (completeTx c s).Inv := by
  refine inv_of_idle rfl rfl hdefb htrace ?_ ?_
  · rintro w ⟨⟩
    obtain rfl | rfl := hc
    · exact .inl (respCode_respWord .ok 0)
    · exact .inr (.inl rfl)
  · rw [State.retLegal, completeTx_ret]
    cases s.hostTx with
    | false => exact hret
    | true =>
      obtain rfl | rfl := hc
      · nofun
      · rintro e ⟨⟩
        exact .inr (.inr rfl)

theorem frameOps_take_succ (pix : Vector Pixel 8) {n : Nat} (h : n < 937) :
    (frameOps pix).take (n + 1) = (frameOps pix).take n ++ [frameOp pix n] := by
  rw [List.take_add_one, frameOps_getElem? pix h]
  rfl

theorem levelsAfter_one (op : LineOp) (s : State) :
    levelsAfter s.clk s.dat [op] = ((s.drive op).clk, (s.drive op).dat) := by
  obtain ⟨line, v⟩ := op
  cases line <;> rfl

/-- A state with line operation n sent and its level on the lines is in the middle of the frame, at n + 1. -/
theorem State.midFrame.next {n : Fin 937} {t : State} (hmid : s.midFrame) (hseq : s.seq = some n)
    (hlt : n.val + 1 < 937) (htseq : t.seq = some ⟨n.val + 1, hlt⟩) (hpix : t.pix = s.pix)
    (htrace : t.trace = s.trace ++ [frameOp s.pix n.val])
    (hlevels : levelsAfter s.clk s.dat [frameOp s.pix n.val] = (t.clk, t.dat)) : t.midFrame := by
  intro m hm
  obtain rfl := Option.some.inj (htseq.symm.trans hm)
  obtain ⟨⟨before, hbefore⟩, clk, dat, hlev⟩ := hmid n hseq
  rw [hpix, frameOps_take_succ s.pix n.isLt]
  refine ⟨⟨before, ?_⟩, clk, dat, ?_⟩
  · rw [htrace, hbefore, List.append_assoc]
  · rw [levelsAfter_append, hlev, hlevels]

/-- Line operation n, performed, keeps the invariant: it is the next of the frame, or its last. -/
theorem State.Inv.lineSet_performed {n : Fin 937} (hinv : s.Inv) (hseq : s.seq = some n)
    (ha : s.answerAt 0 = .performed) : (lineSet (frameOp s.pix n.val) s).state.Inv := by
  have htrace : (s.trace ++ [frameOp s.pix n.val]).length ≤ s.nops + 1 := by
    simpa using hinv.performedAttempted
  rw [Machine.lineSet_performed ha]
  by_cases hlt : n.val + 1 < 937
  · have hbusy : s.busy = true := by rw [State.busy, hseq]; rfl
    rw [advanceSeq_of_lt (by simpa using hseq) hlt]
    exact {
      defbFrac := by simpa using hinv.defbFrac
      callWaits := fun _ => rfl
      noEarlyResponse := fun _ => by simpa using hinv.noEarlyResponse hbusy
      performedAttempted := by simpa using htrace
      midFrame := hinv.midFrame.next hseq hlt rfl (by simp) rfl (levelsAfter_one _ s.countOp)
      rspLegal := by simpa [State.rspLegal] using hinv.rspLegal
      retLegal := by simpa [State.retLegal] using hinv.retLegal }
  · rw [advanceSeq_of_last (by simpa using hseq) hlt]
    exact inv_completeTx (.inl rfl) (by simpa using hinv.defbFrac) (by simpa using htrace)
      (by simpa [State.retLegal] using hinv.retLegal)

/-- A failed line operation, whichever level its line has, ends the frame. -/
theorem State.Inv.lineSet_failed {took : Bit} (hinv : s.Inv) (op : LineOp) (ha : s.answerAt 0 = .failed took) :
    (lineSet op s).state.Inv := by
  have htrace : s.trace.length ≤ s.nops + 1 := Nat.le_succ_of_le hinv.performedAttempted
  rw [Machine.lineSet_failed ha]
  cases took with
  | false => exact inv_completeTx (.inr rfl) hinv.defbFrac htrace hinv.retLegal
  | true =>
    exact inv_completeTx (.inr rfl) (by simpa using hinv.defbFrac) (by simpa using htrace)
      (by simpa [State.retLegal] using hinv.retLegal)

theorem State.Inv.lineStep {n : Fin 937} (hinv : s.Inv) (hseq : s.seq = some n) : (lineStep n s).Inv := by
  cases ha : s.answerAt 0 with
  | performed => exact hinv.lineSet_performed hseq ha
  | failed took => exact hinv.lineSet_failed _ ha

end inv

/-- Settles O49: nothing has run yet. -/
theorem invariantAtReset : Obligations.InvariantAtReset :=
  inv_of_idle rfl rfl ⟨zero_le_one, le_refl 1⟩ (Nat.le_refl 0) nofun nofun

/-- Settles O50: each kind of step keeps the invariant. -/
theorem stepKeepsTheInvariant : Obligations.StepKeepsTheInvariant := by
  intro s t hinv h
  cases hr : s.rstLevel with
  | true =>
    cases h.symm.trans (step_of_rst hr)
    exact inv_hardReset s.popRst
  | false =>
    cases hs : s.seq with
    | some n =>
      cases h.symm.trans (step_of_busy hs hr)
      exact hinv.popRst.lineStep hs
    | none =>
      cases idleStep_of_step hs hr h with
      | waits => exact hinv.taken
      | illegal => exact hinv.taken.answerIllegal hs
      | acceptsTx => exact hinv.taken.acceptTx
      | acceptsTransmit => exact hinv.taken.acceptTransmit
      | runs hwire htx htransmit hexec =>
        exact hinv.taken.quietEffect hs (exec_quietEffect hwire htx htransmit hexec)

end Sys2Proof.Machine
end

section
/-! The fine steps of a frame (R148) against the emission of its line operations (R150): as long as `rst` is low, the
steps from line operation n on perform the operations of the frame from n on, up to the first that fails. -/

namespace Sys2Proof.Machine

/-! ## Runs of busy steps -/

theorem rstQuiet_mono {s : State} {j k : Nat} (h : s.rstQuiet k) (hjk : j ≤ k) : s.rstQuiet j :=
  fun b hb => h b (List.take_subset_take_left _ hjk hb)

/-- k steps, each from a busy state, lead to the state t but for the levels of `rst` they use up. -/
def BusyUntil (s : State) (k : Nat) (t : State) : Prop :=
  run k s = .next { t with rst := s.rst.drop k } ∧ ∀ j < k, ∃ u, run j s = .next u ∧ u.busy = true

section busy
variable {s s' t : State} {k : Nat}

theorem busyUntil_zero (t : State) (r : List Bit) : BusyUntil { t with rst := r } 0 t :=
  ⟨rfl, fun j hj => absurd hj (Nat.not_lt_zero j)⟩

/-- A busy step before a run of busy steps. -/
theorem BusyUntil.step (hrun : BusyUntil s' k t) (hbusy : s.busy = true) (hstep : step s = .next s')
    (hrst : s'.rst = s.rst.tail) : BusyUntil s (k + 1) t := by
  obtain ⟨hreach, hbefore⟩ := hrun
  constructor
  · rw [run_succ hstep, hreach, hrst, List.drop_tail]
  · intro j hj
    cases j with
    | zero => exact ⟨s, rfl, hbusy⟩
    | succ j =>
      rw [run_succ hstep]
      exact hbefore j (Nat.lt_of_succ_lt_succ hj)

end busy

/-! ## The steps of a piece of a frame -/

theorem frameOps_drop (pix : Vector Pixel 8) {n : Nat} (h : n < 937) :
    (frameOps pix).drop n = frameOp pix n :: (frameOps pix).drop (n + 1) := by
  have hlt : n < (frameOps pix).length := h.trans_eq (frameOps_length pix).symm
  rw [List.drop_eq_getElem_cons hlt, (List.getElem_eq_iff hlt).mpr (frameOps_getElem? pix h)]

section frame
variable {s : State} {n : Fin 937}

theorem busy_of_seq_some (hs : s.seq = some n) : s.busy = true := by
  rw [State.busy, hs, Option.isSome_some]

/-- The step of a running frame is its line operation, but for the level of `rst`. -/
theorem step_of_busy_eq_lineSet (hs : s.seq = some n) (hr : s.rstLevel = false) :
    step s = .next { (lineSet (frameOp s.pix n.val) s).state with rst := s.rst.tail } := by
  rw [step_of_busy hs hr]
  exact congrArg (fun a : Attempt => Host.Outcome.next a.state) (lineSet_rst _ s s.rst.tail)

/-- The steps from line operation n on perform the operations of the frame from n on: in at most as many steps as there
are operations, all of them from busy states, the machine is in the state after their emission. -/
theorem busyUntil_emit {ops : List LineOp} (hne : ops ≠ []) (hs : s.seq = some n)
    (hops : ops <+: (frameOps s.pix).drop n.val) (hquiet : s.rstQuiet ops.length) :
    ∃ k, 1 ≤ k ∧ k ≤ ops.length ∧ BusyUntil s k (emit ops s).state := by
  induction ops generalizing s n with
  | nil => exact absurd rfl hne
  | cons op ops ih =>
    rw [frameOps_drop s.pix n.isLt, List.cons_prefix_cons] at hops
    obtain ⟨rfl, hops⟩ := hops
    have hbusy := busy_of_seq_some hs
    have hstep := step_of_busy_eq_lineSet hs (rstLevel_of_quiet hquiet)
    rw [emit_cons]
    by_cases hgo : (lineSet (frameOp s.pix n.val) s).done = true ∧ ops ≠ []
    · obtain ⟨hdone, hrest⟩ := hgo
      have hlt : n.val + 1 < 937 := by
        by_contra hend
        rw [List.drop_eq_nil_of_le (by rw [frameOps_length]; omega)] at hops
        exact hrest (List.prefix_nil.mp hops)
      have ha : s.answerAt 0 = .performed := of_decide_eq_true ((lineSet_trace _ s).1.symm.trans hdone)
      obtain ⟨k, -, hk, hrun⟩ := ih (s := { (lineSet (frameOp s.pix n.val) s).state with rst := s.rst.tail })
        hrest (lineSet_performed_seq_of_lt ha hs hlt) (by simpa using hops) (rstQuiet_tail hquiet rfl)
      rw [emit_rst] at hrun
      rw [andThen_done hdone]
      exact ⟨k + 1, Nat.le_add_left 1 k, Nat.succ_le_succ hk, hrun.step hbusy hstep rfl⟩
    · have hlast : andThen (lineSet (frameOp s.pix n.val)) (emit ops) s = lineSet (frameOp s.pix n.val) s := by
        cases hdone : (lineSet (frameOp s.pix n.val) s).done with
        | false => exact andThen_stopped hdone
        | true =>
          obtain rfl : ops = [] := by_contra fun hrest => hgo ⟨hdone, hrest⟩
          rw [← emit_cons, emit_one]
      rw [hlast]
      exact ⟨1, le_refl 1, Nat.le_add_left 1 _, (busyUntil_zero _ _).step hbusy hstep rfl⟩

/-- The rest of a frame, performed or cut short, ends it with a response (R131, R149). -/
theorem emit_to_end {ops : List LineOp} (hs : s.seq = some n) (hlen : n.val + ops.length = 937) :
    (emit ops s).state.busy = false ∧
      ((emit ops s).state.rsp = some 0x00000000#32 ∨ (emit ops s).state.rsp = some 0x60000000#32) := by
  obtain hall | ⟨f, hf, took, hfail⟩ := allPerformed_or_firstFailure s ops.length
  · rw [emit_completes ops s n hs hlen hall]
    exact ⟨rfl, .inl rfl⟩
  · rw [emit_failed ops _ s f took n hs (by omega) hfail (List.getElem?_eq_getElem hf)]
    exact ⟨rfl, .inr rfl⟩

/-- The fine steps from line operation n on end the frame. -/
theorem busyUntil_end (hs : s.seq = some n) (hquiet : s.rstQuiet (937 - n.val)) :
    ∃ k, 1 ≤ k ∧ k ≤ 937 - n.val ∧ BusyUntil s k (emit ((frameOps s.pix).drop n.val) s).state := by
  have hlen : ((frameOps s.pix).drop n.val).length = 937 - n.val := by rw [List.length_drop, frameOps_length]
  have hne : (frameOps s.pix).drop n.val ≠ [] := List.ne_nil_of_length_pos (by omega)
  rw [← hlen] at hquiet ⊢
  exact busyUntil_emit hne hs List.prefix_rfl hquiet

end frame

/-! ## The obligations -/

/-- Settles O38: the steps perform what is left of the frame, and that ends it. -/
theorem everyFrameEnds : Obligations.EveryFrameEnds := by
  intro s n hs hquiet
  have hlen : n.val + ((frameOps s.pix).drop n.val).length = 937 := by rw [List.length_drop, frameOps_length]; omega
  obtain ⟨k, hk, hk', hrun, -⟩ := busyUntil_end hs (rstQuiet_mono hquiet (by omega))
  exact ⟨k, _, hk, hk', hrun, emit_to_end hs hlen⟩

theorem itemAt_layer (pix : Vector Pixel 8) (n : Nat) : (itemAt pix n).layer = .wire := by
  obtain h | ⟨i, hlo, hhi⟩ | h := item_cases n
  · rw [(itemAt_preamble pix h).1]; rfl
  · rw [(itemAt_packet pix hlo hhi).1]; rfl
  · rw [(itemAt_latch pix h).1]; rfl

/-- Settles O37: the operations of an item are the first of those of the frame from its start on. -/
theorem fineStepsReachTheWireItem : Obligations.FineStepsReachTheWireItem := by
  intro s n hs hstart hquiet
  obtain ⟨hprefix, -, hlt, hlen⟩ := itemOps_prefix s.pix n.isLt
  rw [hstart] at hprefix hlt
  have hne : itemOps (itemAt s.pix n.val) ≠ [] := List.ne_nil_of_length_pos (by omega)
  obtain ⟨k, hk, hk', hrun, -⟩ := busyUntil_emit hne hs hprefix (rstQuiet_mono hquiet hlen)
  exact ⟨k, _, hk, hk'.trans hlen, exec_item s (itemAt_layer s.pix n.val), hrun⟩

/-- After the step that accepts a `TX` the steps are the body of `TX`, and end the frame. -/
theorem run_accepted {s a : State} (hstep : step s = .next { a with rst := s.rst.tail }) (ha : a.seq = some 0)
    (hquiet : s.rstQuiet 938) :
    ∃ k, 2 ≤ k ∧ k ≤ 938 ∧ run k s = .next { (txBody a).state with rst := s.rst.drop k } ∧
      ∀ j, 1 ≤ j → j < k → ∃ u, run j s = .next u ∧ u.busy = true := by
  obtain ⟨k, hk, hk', hreach, hbefore⟩ :=
    busyUntil_end (s := { a with rst := s.rst.tail }) ha (rstQuiet_tail hquiet rfl)
  have hbody : (emit ((frameOps a.pix).drop 0) { a with rst := s.rst.tail }).state =
      { (txBody a).state with rst := s.rst.tail } := by
    rw [List.drop_zero, emit_rst, txBody_eq_emit]
  refine ⟨k + 1, Nat.succ_le_succ hk, Nat.succ_le_succ hk', ?_, fun j hj hjk => ?_⟩
  · rw [run_succ hstep, hreach, Fin.val_zero, hbody, List.drop_tail]
  · obtain ⟨j, rfl⟩ := Nat.exists_eq_add_of_le' hj
    rw [run_succ hstep]
    exact hbefore j (Nat.lt_of_succ_lt_succ hjk)

/-- An accepted frame, run to its end, leaves the block idle. -/
theorem txBody_not_busy {a : State} (ha : a.seq = some 0) : (txBody a).state.busy = false := by
  rw [txBody_eq_emit]
  exact (emit_to_end ha (by simp)).1

/-- Settles O36: the first step accepts the `TX`, and the others are `run_accepted`. -/
theorem fineStepsReachTheCoarseTransmit : Obligations.FineStepsReachTheCoarseTransmit := by
  intro s rest i hs hquiet hi
  have hr := rstLevel_of_quiet hquiet
  obtain ⟨rfl, hq⟩ | ⟨rfl, hq⟩ := hi
  · have hstep := step_of_tx hs hr hq rfl
    obtain ⟨k, hk, hk', hreach, hbefore⟩ := run_accepted (a := acceptTx { s with requests := rest }) hstep rfl hquiet
    exact ⟨k, _, hk, hk', exec_tx _, txBody_not_busy rfl, hreach, hbefore⟩
  · have hstep := step_of_transmit hs hr hq rfl
    obtain ⟨k, hk, hk', hreach, hbefore⟩ :=
      run_accepted (a := acceptTransmit { s with requests := rest }) hstep rfl hquiet
    exact ⟨k, _, hk, hk', exec_transmit _, txBody_not_busy rfl, hreach, hbefore⟩

end Sys2Proof.Machine
end
